-- ==== Sys2Proof/Word.lean ====
section
/-! DEFINITION. The machine's word types (10_state.md R21, R23, R24; 00_scope.md R9). -/

namespace Sys2Proof

/-- A general register, a timer, a byte of Memory (R8, R21). -/
abbrev Byte := BitVec 8

/-- The program counter, the index register, an instruction word (R8, R23, R24, R80). -/
abbrev Word := BitVec 16

/-- The index of a general register, the fields x and y (R82). -/
abbrev RegIdx := Fin 16

end Sys2Proof
end

