-- ==== Sys2Proof/Syntax.lean ====
section
/-! DEFINITION. The 34 instructions (30_encoding.md R86), one constructor per row of spec/opcode_table.json. -/

namespace Sys2Proof

/-- The instruction set. Fields as R82: `x`, `y` register indexes, `nn` the immediate byte, `nnn` the address
as it is written to pc or I (zero-extended to 16 bits), `n` the sprite's row count. -/
inductive Instr where
  /-- 00E0 `CLS` (R181) -/
  | cls
  /-- 00EE `RET` (R121) -/
  | ret
  /-- 1NNN `JP nnn` (R122) -/
  | jp (nnn : Word)
  /-- 2NNN `CALL nnn` (R123) -/
  | call (nnn : Word)
  /-- 3XNN `SE Vx, nn` (R125) -/
  | seVxNn (x : RegIdx) (nn : Byte)
  /-- 4XNN `SNE Vx, nn` (R126) -/
  | sneVxNn (x : RegIdx) (nn : Byte)
  /-- 5XY0 `SE Vx, Vy` (R127) -/
  | seVxVy (x y : RegIdx)
  /-- 6XNN `LD Vx, nn` (R141) -/
  | ldVxNn (x : RegIdx) (nn : Byte)
  /-- 7XNN `ADD Vx, nn` (R142) -/
  | addVxNn (x : RegIdx) (nn : Byte)
  /-- 8XY0 `LD Vx, Vy` (R143) -/
  | ldVxVy (x y : RegIdx)
  /-- 8XY1 `OR Vx, Vy` (R144) -/
  | orVxVy (x y : RegIdx)
  /-- 8XY2 `AND Vx, Vy` (R145) -/
  | andVxVy (x y : RegIdx)
  /-- 8XY3 `XOR Vx, Vy` (R146) -/
  | xorVxVy (x y : RegIdx)
  /-- 8XY4 `ADD Vx, Vy` (R147) -/
  | addVxVy (x y : RegIdx)
  /-- 8XY5 `SUB Vx, Vy` (R148) -/
  | subVxVy (x y : RegIdx)
  /-- 8XY6 `SHR Vx` (R149); `y` is carried so that no bit of the word is lost, the operation ignores it (R84). -/
  | shrVx (x y : RegIdx)
  /-- 8XY7 `SUBN Vx, Vy` (R150) -/
  | subnVxVy (x y : RegIdx)
  /-- 8XYE `SHL Vx` (R151); `y` as in `shrVx` (R84). -/
  | shlVx (x y : RegIdx)
  /-- 9XY0 `SNE Vx, Vy` (R128) -/
  | sneVxVy (x y : RegIdx)
  /-- ANNN `LD I, nnn` (R161) -/
  | ldINnn (nnn : Word)
  /-- BNNN `JP V0, nnn` (R124) -/
  | jpV0 (nnn : Word)
  /-- CXNN `RND Vx, nn` (R152) -/
  | rndVxNn (x : RegIdx) (nn : Byte)
  /-- DXYN `DRW Vx, Vy, n` (R183) -/
  | drw (x y : RegIdx) (n : Nat)
  /-- EX9E `SKP Vx` (R201) -/
  | skpVx (x : RegIdx)
  /-- EXA1 `SKNP Vx` (R202) -/
  | sknpVx (x : RegIdx)
  /-- FX07 `LD Vx, DT` (R204) -/
  | ldVxDt (x : RegIdx)
  /-- FX0A `LD Vx, K` (R203) -/
  | ldVxK (x : RegIdx)
  /-- FX15 `LD DT, Vx` (R205) -/
  | ldDtVx (x : RegIdx)
  /-- FX18 `LD ST, Vx` (R206) -/
  | ldStVx (x : RegIdx)
  /-- FX1E `ADD I, Vx` (R162) -/
  | addIVx (x : RegIdx)
  /-- FX29 `LD F, Vx` (R163) -/
  | ldFVx (x : RegIdx)
  /-- FX33 `LD B, Vx` (R164) -/
  | ldBVx (x : RegIdx)
  /-- FX55 `LD [I], Vx` (R165) -/
  | ldMemVx (x : RegIdx)
  /-- FX65 `LD Vx, [I]` (R166) -/
  | ldVxMem (x : RegIdx)
  deriving DecidableEq, Repr

end Sys2Proof
end

