-- ==== Sys2Proof/WellFormed.lean ====
section
/-! DEFINITION. Which instructions have an encoding: every field fits its bits (30_encoding.md R82). -/

namespace Sys2Proof

/-- An address field has 12 bits, 0 to 0xFFF (R82). -/
def fitsNnn (nnn : Word) : Bool := nnn.toNat ≤ 0xFFF

/-- The row count of DXYN has 4 bits, 0 to 15 (R8, R82). -/
def fitsN (n : Nat) : Bool := n ≤ 15

/-- Every field fits its bits (R82). Register indexes and immediate bytes fit by their types. -/
def Instr.wellFormed : Instr → Bool
  | .jp nnn => fitsNnn nnn
  | .call nnn => fitsNnn nnn
  | .ldINnn nnn => fitsNnn nnn
  | .jpV0 nnn => fitsNnn nnn
  | .drw _ _ n => fitsN n
  | .cls => true
  | .ret => true
  | .seVxNn _ _ => true
  | .sneVxNn _ _ => true
  | .seVxVy _ _ => true
  | .ldVxNn _ _ => true
  | .addVxNn _ _ => true
  | .ldVxVy _ _ => true
  | .orVxVy _ _ => true
  | .andVxVy _ _ => true
  | .xorVxVy _ _ => true
  | .addVxVy _ _ => true
  | .subVxVy _ _ => true
  | .shrVx _ _ => true
  | .subnVxVy _ _ => true
  | .shlVx _ _ => true
  | .sneVxVy _ _ => true
  | .rndVxNn _ _ => true
  | .skpVx _ => true
  | .sknpVx _ => true
  | .ldVxDt _ => true
  | .ldVxK _ => true
  | .ldDtVx _ => true
  | .ldStVx _ => true
  | .addIVx _ => true
  | .ldFVx _ => true
  | .ldBVx _ => true
  | .ldMemVx _ => true
  | .ldVxMem _ => true

end Sys2Proof
end

