-- ==== Sys2Proof/Decode.lean ====
section
/-! DEFINITION. The decoder, the encoder and the opcode map (30_encoding.md R80 to R88). -/

namespace Sys2Proof

/-! ### Bytes and words (20_memory.md R56, R57) -/

/-- `be16`: the big-endian value of two bytes, the first byte is op[15:8] (R11, R56). -/
def be16 (hi lo : Byte) : Word := BitVec.ofNat 16 (hi.toNat * 256 + lo.toNat)

/-- op[15:8], the byte at the lower address (R56). -/
def hiByte (w : Word) : Byte := w.extractLsb' 8 8

/-- op[7:0], the byte at the higher address (R56). -/
def loByte (w : Word) : Byte := w.extractLsb' 0 8

/-! ### Fields (R82) -/

/-- The primary opcode op[15:12] (R81). -/
def fieldOp (w : Word) : BitVec 4 := w.extractLsb' 12 4

/-- x = op[11:8]. -/
def fieldX (w : Word) : RegIdx := (w.extractLsb' 8 4).toFin

/-- y = op[7:4]. -/
def fieldY (w : Word) : RegIdx := (w.extractLsb' 4 4).toFin

/-- n = op[3:0]. -/
def fieldN (w : Word) : BitVec 4 := w.extractLsb' 0 4

/-- nn = op[7:0]. -/
def fieldNn (w : Word) : Byte := w.extractLsb' 0 8

/-- nnn = op[11:0], zero-extended to 16 bits. -/
def fieldNnn (w : Word) : Word := (w.extractLsb' 0 12).setWidth 16

/-! ### Decoding -/

/-- The words 0x0kkk: exactly two of them are instructions (R85). -/
def decodeZero (w : Word) : Option Instr :=
  if w = 0x00E0 then some .cls else if w = 0x00EE then some .ret else none

/-- The register-to-register family, selected by op[3:0] (R85). -/
def decodeAlu (w : Word) : Option Instr :=
  if fieldN w = 0x0 then some (.ldVxVy (fieldX w) (fieldY w))
  else if fieldN w = 0x1 then some (.orVxVy (fieldX w) (fieldY w))
  else if fieldN w = 0x2 then some (.andVxVy (fieldX w) (fieldY w))
  else if fieldN w = 0x3 then some (.xorVxVy (fieldX w) (fieldY w))
  else if fieldN w = 0x4 then some (.addVxVy (fieldX w) (fieldY w))
  else if fieldN w = 0x5 then some (.subVxVy (fieldX w) (fieldY w))
  else if fieldN w = 0x6 then some (.shrVx (fieldX w) (fieldY w))
  else if fieldN w = 0x7 then some (.subnVxVy (fieldX w) (fieldY w))
  else if fieldN w = 0xE then some (.shlVx (fieldX w) (fieldY w))
  else none

/-- The key family, selected by op[7:0] (R85). -/
def decodeKey (w : Word) : Option Instr :=
  if fieldNn w = 0x9E then some (.skpVx (fieldX w))
  else if fieldNn w = 0xA1 then some (.sknpVx (fieldX w))
  else none

/-- The FX family, selected by op[7:0] (R85). -/
def decodeMisc (w : Word) : Option Instr :=
  if fieldNn w = 0x07 then some (.ldVxDt (fieldX w))
  else if fieldNn w = 0x0A then some (.ldVxK (fieldX w))
  else if fieldNn w = 0x15 then some (.ldDtVx (fieldX w))
  else if fieldNn w = 0x18 then some (.ldStVx (fieldX w))
  else if fieldNn w = 0x1E then some (.addIVx (fieldX w))
  else if fieldNn w = 0x29 then some (.ldFVx (fieldX w))
  else if fieldNn w = 0x33 then some (.ldBVx (fieldX w))
  else if fieldNn w = 0x55 then some (.ldMemVx (fieldX w))
  else if fieldNn w = 0x65 then some (.ldVxMem (fieldX w))
  else none

/-- `Decode(op)` (R83, R85, R104): the one instruction of the word, `none` for an unimplemented word (R88). -/
def decodeWord (w : Word) : Option Instr :=
  match (fieldOp w).toNat with
  | 0x0 => decodeZero w
  | 0x1 => some (.jp (fieldNnn w))
  | 0x2 => some (.call (fieldNnn w))
  | 0x3 => some (.seVxNn (fieldX w) (fieldNn w))
  | 0x4 => some (.sneVxNn (fieldX w) (fieldNn w))
  | 0x5 => if fieldN w = 0 then some (.seVxVy (fieldX w) (fieldY w)) else none
  | 0x6 => some (.ldVxNn (fieldX w) (fieldNn w))
  | 0x7 => some (.addVxNn (fieldX w) (fieldNn w))
  | 0x8 => decodeAlu w
  | 0x9 => if fieldN w = 0 then some (.sneVxVy (fieldX w) (fieldY w)) else none
  | 0xA => some (.ldINnn (fieldNnn w))
  | 0xB => some (.jpV0 (fieldNnn w))
  | 0xC => some (.rndVxNn (fieldX w) (fieldNn w))
  | 0xD => some (.drw (fieldX w) (fieldY w) (fieldN w).toNat)
  | 0xE => decodeKey w
  | 0xF => decodeMisc w
  | _ => none

/-- Why bytes are no instruction. -/
inductive DecodeError where
  /-- Fewer than two bytes are left. -/
  | truncated
  /-- The word matches none of the 34 patterns (R88). -/
  | unimplemented (opcode : Word)
  deriving DecidableEq, Repr

/-- The decoder over bytes: two bytes, high byte first (R80), and the rest. -/
def decode : List Byte → Except DecodeError (Instr × List Byte)
  | hi :: lo :: rest =>
    match decodeWord (be16 hi lo) with
    | some i => .ok (i, rest)
    | none => .error (.unimplemented (be16 hi lo))
  | _ => .error .truncated

/-- The decoder's reading of a word numbered as spec/opcode_table.json numbers it: one 16-bit word, bit 0 the
least significant, laid out high byte first (R56); bits above `nbits` are 0. -/
def decodeTableWord (nbits w : Nat) : Option Instr :=
  let word : Word := BitVec.ofNat 16 (w % 2 ^ nbits)
  match decode [hiByte word, loByte word] with
  | .ok (i, _) => some i
  | .error _ => none

/-! ### Encoding, from the encoding column of R86 -/

/-- Format A: the opcode in op[15:12], nnn in op[11:0]. -/
def packNnn (op : Nat) (nnn : Word) : Word := BitVec.ofNat 16 (op * 4096 + nnn.toNat % 4096)

/-- Format XI: the opcode in op[15:12], x in op[11:8], nn in op[7:0]. Also format XF, with the function byte for nn. -/
def packXNn (op : Nat) (x : RegIdx) (nn : Byte) : Word := BitVec.ofNat 16 (op * 4096 + x.val * 256 + nn.toNat)

/-- Formats XY and XYN: the opcode in op[15:12], x in op[11:8], y in op[7:4], the function or n in op[3:0]. -/
def packXYN (op : Nat) (x y : RegIdx) (n : Nat) : Word :=
  BitVec.ofNat 16 (op * 4096 + x.val * 256 + y.val * 16 + n % 16)

/-- The word of a well-formed instruction (R86). -/
def encodeWord : Instr → Word
  | .cls => 0x00E0
  | .ret => 0x00EE
  | .jp nnn => packNnn 0x1 nnn
  | .call nnn => packNnn 0x2 nnn
  | .seVxNn x nn => packXNn 0x3 x nn
  | .sneVxNn x nn => packXNn 0x4 x nn
  | .seVxVy x y => packXYN 0x5 x y 0x0
  | .ldVxNn x nn => packXNn 0x6 x nn
  | .addVxNn x nn => packXNn 0x7 x nn
  | .ldVxVy x y => packXYN 0x8 x y 0x0
  | .orVxVy x y => packXYN 0x8 x y 0x1
  | .andVxVy x y => packXYN 0x8 x y 0x2
  | .xorVxVy x y => packXYN 0x8 x y 0x3
  | .addVxVy x y => packXYN 0x8 x y 0x4
  | .subVxVy x y => packXYN 0x8 x y 0x5
  | .shrVx x y => packXYN 0x8 x y 0x6
  | .subnVxVy x y => packXYN 0x8 x y 0x7
  | .shlVx x y => packXYN 0x8 x y 0xE
  | .sneVxVy x y => packXYN 0x9 x y 0x0
  | .ldINnn nnn => packNnn 0xA nnn
  | .jpV0 nnn => packNnn 0xB nnn
  | .rndVxNn x nn => packXNn 0xC x nn
  | .drw x y n => packXYN 0xD x y n
  | .skpVx x => packXNn 0xE x 0x9E
  | .sknpVx x => packXNn 0xE x 0xA1
  | .ldVxDt x => packXNn 0xF x 0x07
  | .ldVxK x => packXNn 0xF x 0x0A
  | .ldDtVx x => packXNn 0xF x 0x15
  | .ldStVx x => packXNn 0xF x 0x18
  | .addIVx x => packXNn 0xF x 0x1E
  | .ldFVx x => packXNn 0xF x 0x29
  | .ldBVx x => packXNn 0xF x 0x33
  | .ldMemVx x => packXNn 0xF x 0x55
  | .ldVxMem x => packXNn 0xF x 0x65

/-- The bytes of an instruction as Memory holds them, high byte first (R80). -/
def encode (i : Instr) : List Byte := [hiByte (encodeWord i), loByte (encodeWord i)]

/-! ### The opcode map of R86: the masks and matches, transcribed on their own -/

/-- A row of R86. -/
structure OpcodeRow where
  mnemonic : String
  mask : Word
  bits : Word
  deriving DecidableEq, Repr

/-- "A word `op` is instruction T exactly when `op & mask(T) == match(T)`" (R83). -/
def OpcodeRow.fits (r : OpcodeRow) (w : Word) : Bool := w &&& r.mask == r.bits

/-- The row of an instruction (R86; mnemonics as spec/opcode_table.json). -/
def Instr.row : Instr → OpcodeRow
  | .cls => ⟨"CLS", 0xFFFF, 0x00E0⟩
  | .ret => ⟨"RET", 0xFFFF, 0x00EE⟩
  | .jp _ => ⟨"JP", 0xF000, 0x1000⟩
  | .call _ => ⟨"CALL", 0xF000, 0x2000⟩
  | .seVxNn _ _ => ⟨"SE_VX_NN", 0xF000, 0x3000⟩
  | .sneVxNn _ _ => ⟨"SNE_VX_NN", 0xF000, 0x4000⟩
  | .seVxVy _ _ => ⟨"SE_VX_VY", 0xF00F, 0x5000⟩
  | .ldVxNn _ _ => ⟨"LD_VX_NN", 0xF000, 0x6000⟩
  | .addVxNn _ _ => ⟨"ADD_VX_NN", 0xF000, 0x7000⟩
  | .ldVxVy _ _ => ⟨"LD_VX_VY", 0xF00F, 0x8000⟩
  | .orVxVy _ _ => ⟨"OR_VX_VY", 0xF00F, 0x8001⟩
  | .andVxVy _ _ => ⟨"AND_VX_VY", 0xF00F, 0x8002⟩
  | .xorVxVy _ _ => ⟨"XOR_VX_VY", 0xF00F, 0x8003⟩
  | .addVxVy _ _ => ⟨"ADD_VX_VY", 0xF00F, 0x8004⟩
  | .subVxVy _ _ => ⟨"SUB_VX_VY", 0xF00F, 0x8005⟩
  | .shrVx _ _ => ⟨"SHR_VX", 0xF00F, 0x8006⟩
  | .subnVxVy _ _ => ⟨"SUBN_VX_VY", 0xF00F, 0x8007⟩
  | .shlVx _ _ => ⟨"SHL_VX", 0xF00F, 0x800E⟩
  | .sneVxVy _ _ => ⟨"SNE_VX_VY", 0xF00F, 0x9000⟩
  | .ldINnn _ => ⟨"LD_I_NNN", 0xF000, 0xA000⟩
  | .jpV0 _ => ⟨"JP_V0", 0xF000, 0xB000⟩
  | .rndVxNn _ _ => ⟨"RND_VX_NN", 0xF000, 0xC000⟩
  | .drw _ _ _ => ⟨"DRW", 0xF000, 0xD000⟩
  | .skpVx _ => ⟨"SKP_VX", 0xF0FF, 0xE09E⟩
  | .sknpVx _ => ⟨"SKNP_VX", 0xF0FF, 0xE0A1⟩
  | .ldVxDt _ => ⟨"LD_VX_DT", 0xF0FF, 0xF007⟩
  | .ldVxK _ => ⟨"LD_VX_K", 0xF0FF, 0xF00A⟩
  | .ldDtVx _ => ⟨"LD_DT_VX", 0xF0FF, 0xF015⟩
  | .ldStVx _ => ⟨"LD_ST_VX", 0xF0FF, 0xF018⟩
  | .addIVx _ => ⟨"ADD_I_VX", 0xF0FF, 0xF01E⟩
  | .ldFVx _ => ⟨"LD_F_VX", 0xF0FF, 0xF029⟩
  | .ldBVx _ => ⟨"LD_B_VX", 0xF0FF, 0xF033⟩
  | .ldMemVx _ => ⟨"LD_MEM_VX", 0xF0FF, 0xF055⟩
  | .ldVxMem _ => ⟨"LD_VX_MEM", 0xF0FF, 0xF065⟩

/-- One instruction of each row of formats Z, A, XI and XYN. -/
def plainSamples : List Instr :=
  [.cls, .ret, .jp 0, .call 0, .seVxNn 0 0, .sneVxNn 0 0, .ldVxNn 0 0, .addVxNn 0 0, .ldINnn 0, .jpV0 0,
    .rndVxNn 0 0, .drw 0 0 0]

/-- One instruction of each row of format XY. -/
def pairSamples : List Instr :=
  [.seVxVy 0 0, .ldVxVy 0 0, .orVxVy 0 0, .andVxVy 0 0, .xorVxVy 0 0, .addVxVy 0 0, .subVxVy 0 0, .shrVx 0 0,
    .subnVxVy 0 0, .shlVx 0 0, .sneVxVy 0 0]

/-- One instruction of each row of format XF. -/
def functionSamples : List Instr :=
  [.skpVx 0, .sknpVx 0, .ldVxDt 0, .ldVxK 0, .ldDtVx 0, .ldStVx 0, .addIVx 0, .ldFVx 0, .ldBVx 0, .ldMemVx 0,
    .ldVxMem 0]

/-- The 34 rows of R86. -/
def opcodeMap : List OpcodeRow :=
  plainSamples.map Instr.row ++ pairSamples.map Instr.row ++ functionSamples.map Instr.row

end Sys2Proof
end

