-- ==== Sys2Proof/Config.lean ====
section
/-! DEFINITION. What an implementation fixes (00_scope.md R7) and the free values the spec leaves open. The default
values of the parameters stand in Machine/Defaults.lean. -/

namespace Sys2Proof

/-- The named parameters of R7, "Each is a named parameter that the model takes as an argument". -/
structure Config where
  /-- MEM_SIZE, the number of bytes in Memory. -/
  memSize : Nat
  /-- PROG_BASE, the first address of the program and the reset value of pc. -/
  progBase : Nat
  /-- FONT_BASE, the address of glyph 0. -/
  fontBase : Nat
  /-- FONT, the 80 font bytes: 16 glyphs of 5 rows. -/
  font : List Byte
  /-- FB_WIDTH, the framebuffer's columns. -/
  fbWidth : Nat
  /-- FB_HEIGHT, the framebuffer's rows. -/
  fbHeight : Nat
  /-- STACK_DEPTH, how many return addresses the call stack holds. -/
  stackDepth : Nat
  /-- KEY_OOR, the answer of the key query for a key number 16 to 255. -/
  keyOor : Bool
  deriving DecidableEq, Repr

/-- The constraints of R7 and R251(c). -/
abbrev Config.Valid (c : Config) : Prop :=
  4096 ≤ c.memSize ∧ c.memSize ≤ 65536 ∧
  c.progBase % 2 = 0 ∧ c.fontBase + 80 ≤ c.progBase ∧ c.progBase + 2 ≤ c.memSize ∧
  c.font.length = 80 ∧ 8 ≤ c.fbWidth ∧ 15 ≤ c.fbHeight ∧ 1 ≤ c.stackDepth

/-- Free value: the 16-bit key sample the host gives at its n-th input (45_keypad_timers.md R207; U14; log 4). -/
opaque Config.freeKeys : Nat → BitVec 16

/-- Free value: the byte RandomByte() answers at the n-th input (42_load_alu.md R153; U2; log 4). -/
opaque Config.freeDraw : Nat → BitVec 8

/-- Free value: how many Ticks arrive between the n-th Step and the one before it (40_step_cycle.md R112;
U13; log 4, log 5). -/
opaque Config.freeTicks : Nat → Nat

/-- Free value: what FX29 leaves in I when FONT_BASE + 5 * V[x], given here, does not fit I's 16 bits; the
spec states no result there (43_index_memory.md R163; log 9). -/
opaque Config.freeGlyphAddr : Nat → BitVec 16

end Sys2Proof
end

