-- ==== Sys2Proof/Machine/Defaults.lean ====
section
/-! DEFINITION. The default parameters of 00_scope.md R7. -/

namespace Sys2Proof.Machine

/-- The customary font, the default of FONT: the table of 10_state.md R33.
PRESUMED (log 2): the spec gives it from general knowledge (D4, G2); unsafe. -/
def customaryFont : List Byte :=
  [0xF0, 0x90, 0x90, 0x90, 0xF0] ++ [0x20, 0x60, 0x20, 0x20, 0x70] ++
  [0xF0, 0x10, 0xF0, 0x80, 0xF0] ++ [0xF0, 0x10, 0xF0, 0x10, 0xF0] ++
  [0x90, 0x90, 0xF0, 0x10, 0x10] ++ [0xF0, 0x80, 0xF0, 0x10, 0xF0] ++
  [0xF0, 0x80, 0xF0, 0x90, 0xF0] ++ [0xF0, 0x10, 0x20, 0x40, 0x40] ++
  [0xF0, 0x90, 0xF0, 0x90, 0xF0] ++ [0xF0, 0x90, 0xF0, 0x10, 0xF0] ++
  [0xF0, 0x90, 0xF0, 0x90, 0x90] ++ [0xE0, 0x90, 0xE0, 0x90, 0xE0] ++
  [0xF0, 0x80, 0x80, 0x80, 0xF0] ++ [0xE0, 0x90, 0x90, 0x90, 0xE0] ++
  [0xF0, 0x80, 0xF0, 0x80, 0xF0] ++ [0xF0, 0x80, 0xF0, 0x80, 0x80]

/-- The default parameters of R7. PRESUMED (log 2): 0x200, the font, 64, 32 and 16 come from general
knowledge (G1 to G4); unsafe in State.reset only, since every other definition takes any Config. -/
def defaultConfig : Config where
  memSize := 4096
  progBase := 0x200
  fontBase := 0x000
  font := customaryFont
  fbWidth := 64
  fbHeight := 32
  stackDepth := 16
  keyOor := false

end Sys2Proof.Machine
end

