-- ==== Sys2Proof/Machine/State.lean ====
section
/-! DEFINITION. The machine's state as plain data (10_state.md R20 to R34), the fault record, the outcomes' reasons
and the state after reset (R37). -/

namespace Sys2Proof.Machine

/-- The fault record's contents (10_state.md R31, 60_exceptions.md R220). -/
inductive FaultRecord where
  /-- A span of `len` bytes at `addr` exceeds Memory (R221). -/
  | outOfBounds (addr len : Nat)
  /-- Decode found no pattern for the word `opcode` fetched at `fetchAddress` (R222). -/
  | unimplementedInstruction (opcode fetchAddress : Word)
  /-- 2NNN at `fetchAddress` with the stack full (R223). -/
  | stackOverflow (fetchAddress : Word)
  /-- 00EE at `fetchAddress` with the stack empty (R224). -/
  | stackUnderflow (fetchAddress : Word)
  deriving DecidableEq, Repr

/-- The output events (00_scope.md R12, 40_step_cycle.md R107). -/
inductive OutEvent where
  /-- `DisplayChanged`, by 00E0 and DXYN (R184). -/
  | displayChanged
  /-- `HaltRecommended`, by a 1NNN or BNNN to its own address (R130). -/
  | haltRecommended
  /-- `FatalError(opcode, fetch_address)`, when decode fails (R222). -/
  | fatalError (opcode fetchAddress : Word)
  deriving DecidableEq, Repr

/-- What the host contributes to one Step: the Ticks that came before it, the key sample (bit k is key k; R207)
and the random byte (R153). The model's own form of the inputs of R12 (log 4). -/
structure HostInput where
  ticks : Nat
  keys : BitVec 16
  draw : Byte
  deriving DecidableEq, Repr

/-- The events the core accepts (00_scope.md R12). -/
inductive HostEvent where
  /-- One Step with the key sample and the random byte of that step (R100, R207, R153). -/
  | step (keys : BitVec 16) (draw : Byte)
  /-- One Tick (R111). -/
  | tick
  /-- Reset with the font image and the program image (70_reset_and_hazards.md R250). -/
  | reset (font program : List Byte)
  deriving DecidableEq, Repr

/-- A pixel's coordinates (px, py) (10_state.md R34). -/
abbrev Pixel := Nat × Nat

/-- Why the machine stops. -/
inductive Fault where
  /-- Raised by `step` and by a Step event while the fault record holds `f`: "A model should treat the faulted
  core as having no step at all" (40_step_cycle.md R108; U6 `stuck`; log 6). Safe: the core stops. -/
  | stopped (f : FaultRecord)
  /-- Raised by a Reset event whose program image of `len` bytes does not fit: "Reset fails with OutOfBounds",
  "it is no core" (60_exceptions.md R236, 70_reset_and_hazards.md R251; log 17). Safe: there is no machine. -/
  | resetOutOfBounds (len : Nat)
  deriving DecidableEq, Repr

/-- Why the model gives no meaning. -/
inductive Refusal where
  /-- Raised by the dispatcher for an instruction without a meaning: no instruction of this model. Safe. -/
  | notModelled (mnemonic : String)
  /-- Raised by a Reset event whose font image is not 80 bytes: "a model takes a font of another length as
  outside its domain" (70_reset_and_hazards.md R251(b), U21; log 17). Safe: nothing is said. -/
  | fontLength (len : Nat)
  /-- Raised by a Reset event under parameters that break the constraints of R7: "outside the preconditions
  nothing is said" (R251(c), D25; log 17). Safe: nothing is said. -/
  | parameters
  deriving DecidableEq, Repr

/-- The whole state: R20's list, the parameters of R7 (log 1), and the inputs and outputs of R12 (log 4, log 7). -/
structure State where
  /-- The parameters of R7; no step changes them. -/
  cfg : Config
  /-- V[0] to V[15] (R21). -/
  v : Vector Byte 16
  /-- The program counter (R23). -/
  pc : Word
  /-- The index register I (R24). -/
  i : Word
  /-- The stack pointer, the byte offset of the next free slot (R26). -/
  sp : Nat
  /-- The call-stack store STK, offset 0 first (R27). -/
  stk : List Byte
  /-- The delay timer (R28). -/
  dt : Byte
  /-- The sound timer (R29). -/
  st : Byte
  /-- The latch flag: set is the run state AwaitingKey (R30, R109). -/
  waitActive : Bool
  /-- The latch's target register (R30). -/
  waitReg : RegIdx
  /-- The sticky fault record (R31). -/
  fault : Option FaultRecord
  /-- Memory: the bytes that differ from their reset contents, addresses rising (R32; log 11). -/
  mem : List Host.Cell
  /-- The framebuffer: the pixels that are set, row by row, left to right (R34; log 14). -/
  fb : List Pixel
  /-- The key sample of the current Step, bit k for key k (R207; log 4). -/
  keys : BitVec 16
  /-- The byte RandomByte() answers in the current Step (R153; log 4). -/
  draw : Byte
  /-- The host inputs lined up for the coming Steps, the next one first (log 4). -/
  script : List HostInput
  /-- How many host inputs have been taken, the argument of the free values (log 4). -/
  samples : Nat
  /-- The output events the latest Step signalled, in order (R107; log 7). -/
  events : List OutEvent
  deriving DecidableEq, Repr

/-- The state right after Reset with the default parameters and an empty program (10_state.md R37, R250).
`keys`, `draw`, `script` and `samples` are the model's own fields: DESIGN CHOICE (log 4). -/
def State.reset : State where
  cfg := defaultConfig
  v := Vector.replicate 16 0
  pc := BitVec.ofNat 16 defaultConfig.progBase
  i := 0
  sp := 0
  stk := List.replicate (2 * defaultConfig.stackDepth) 0
  dt := 0
  st := 0
  waitActive := false
  waitReg := 0
  fault := none
  mem := []
  fb := []
  keys := 0
  draw := 0
  script := []
  samples := 0
  events := []

end Sys2Proof.Machine
end

