-- ==== Sys2Proof/Machine/Ops.lean ====
section
/-! DEFINITION. The named operations over the state: registers, pc, Memory, the stack, the framebuffer's pixels,
signals, taking a fault, and the events from outside (Tick, key poll, Reset). -/

namespace Sys2Proof.Machine

/-- What an instruction's meaning answers. -/
abbrev Result := Host.Outcome State Fault Refusal

/-! ### General registers (10_state.md R21, R22) -/

/-- `V[x]`. -/
def State.reg (s : State) (x : RegIdx) : Byte := s.v[x]

/-- `V[x] <- b`. -/
def State.setReg (s : State) (x : RegIdx) (b : Byte) : State := { s with v := s.v.set x b }

/-- `VF`, register 15 (R22). -/
abbrev vf : RegIdx := 15

/-! ### The program counter (R23) -/

/-- `pc <- w`. -/
def State.setPc (s : State) (w : Word) : State := { s with pc := w }

/-- `pc <- (pc + 2) mod 65536`: the advance of every fetch (R103) and a taken skip (R129). -/
def State.advance (s : State) : State := s.setPc (s.pc + 2)

/-- `fa`, the fetch address, from the advanced pc: R103 sets pc to (fa + 2) mod 65536 before decode (log 8). -/
abbrev State.fetchAddr (s : State) : Word := s.pc - 2

/-! ### The index register and the timers (R24, R28, R29) -/

/-- `I <- w`. -/
def State.setI (s : State) (w : Word) : State := { s with i := w }

/-- `DT <- b`. -/
def State.setDt (s : State) (b : Byte) : State := { s with dt := b }

/-- `ST <- b`. -/
def State.setSt (s : State) (b : Byte) : State := { s with st := b }

/-- The latch (R30): enter AwaitingKey with target register x (R203). -/
def State.await (s : State) (x : RegIdx) : State := { s with waitActive := true, waitReg := x }

/-- The latch (R30): back to Running; wait.reg keeps its value (D28). -/
def State.wake (s : State) : State := { s with waitActive := false }

/-! ### Signals (00_scope.md R11 "emit output event E to the host; no state change") -/

/-- `signal E`. -/
def State.signal (s : State) (e : OutEvent) : State := { s with events := s.events ++ [e] }

/-! ### Memory (10_state.md R32, 20_memory.md)

A list of (address, byte), addresses rising, no byte equal to the reset contents of its address. -/

/-- What a byte of Memory holds right after Reset, before the program is loaded: the font at FONT_BASE and
0x00 elsewhere (10_state.md R32, R37; 70_reset_and_hazards.md R250). This is what an unlisted address of the
memory list reads as (log 11). -/
def resetByte (c : Config) (a : Nat) : Byte :=
  if c.fontBase ≤ a ∧ a < c.fontBase + 80 then c.font.getD (a - c.fontBase) 0 else 0

/-- The byte at address `a`: the listed one, else the reset contents (R32, R37). -/
def Memory.get (c : Config) : List Host.Cell → Nat → Byte
  | [], a => resetByte c a
  | (b, x) :: m, a => if a = b then x else Memory.get c m a

/-- Put (a, x) into its place, over an entry for `a` if there is one. -/
def Memory.insert (a : Nat) (x : Byte) : List Host.Cell → List Host.Cell
  | [] => [(a, x)]
  | (b, y) :: m =>
    if a < b then (a, x) :: (b, y) :: m
    else if a = b then (a, x) :: m
    else (b, y) :: Memory.insert a x m

/-- `Mem[a] <- x`. Writing the reset contents unlists the address, so equal memories are equal lists. -/
def Memory.set (c : Config) (m : List Host.Cell) (a : Nat) (x : Byte) : List Host.Cell :=
  if x = resetByte c a then m.filter (fun e => e.1 ≠ a) else Memory.insert a x m

/-- The bytes at a, a + 1, ... (R55: byte k of the sequence is at address base + k). -/
def Memory.getRange (c : Config) (m : List Host.Cell) (a : Nat) : Nat → List Byte
  | 0 => []
  | n + 1 => Memory.get c m a :: Memory.getRange c m (a + 1) n

/-- Write the bytes to a, a + 1, ... in order (R55). -/
def Memory.setRange (c : Config) (m : List Host.Cell) (a : Nat) : List Byte → List Host.Cell
  | [] => m
  | x :: xs => Memory.setRange c (Memory.set c m a x) (a + 1) xs

/-- The canonical form: addresses strictly rising and inside the store, no entry equal to what an unlisted
address reads as. -/
abbrev Memory.wf (c : Config) (m : List Host.Cell) : Prop :=
  m.Pairwise (fun e f => e.1 < f.1) ∧ ∀ e ∈ m, e.1 < c.memSize ∧ e.2 ≠ resetByte c e.1

/-- The bounds check of a span of n bytes at a, on unbounded integers (20_memory.md R58, D17); an empty span is
always in bounds (R59, D15). -/
def inBounds (c : Config) (a n : Nat) : Bool := n = 0 || a + n ≤ c.memSize

/-- `Mem[a]`, as an observer reads one byte. -/
def State.byteAt (s : State) (a : Nat) : Byte := Memory.get s.cfg s.mem a

/-- `MemRead(a, n)`: the bytes, `none` where the bounds check fails (R11, R58). -/
def State.memRead (s : State) (a n : Nat) : Option (List Byte) :=
  if inBounds s.cfg a n then some (Memory.getRange s.cfg s.mem a n) else none

/-- Memory with the bytes written at a, a + 1, ...; the check is `memWrite`'s. -/
def State.putBytes (s : State) (a : Nat) (bs : List Byte) : State :=
  { s with mem := Memory.setRange s.cfg s.mem a bs }

/-- `MemWrite(a, n, b)`: `none`, and nothing written, where the bounds check fails (R11, R58, R60). -/
def State.memWrite (s : State) (a : Nat) (bs : List Byte) : Option State :=
  if inBounds s.cfg a bs.length then some (s.putBytes a bs) else none

/-! ### Taking a fault (60_exceptions.md R225)

There is no return from a fault (R228): no instruction clears the record, the only way out is `resetEvent`. -/

/-- The host event a fault is surfaced with: FatalError for UnimplementedInstruction only (R225(4)). -/
def FaultRecord.events : FaultRecord → List OutEvent
  | .unimplementedInstruction op fa => [.fatalError op fa]
  | .outOfBounds _ _ => []
  | .stackOverflow _ => []
  | .stackUnderflow _ => []

/-- `raise F(info)`: the record is set, nothing of the instruction is written, pc stays as it was when the fault
was found (R225). -/
def State.raise (s : State) (f : FaultRecord) : State :=
  { s with fault := some f, events := s.events ++ f.events }

/-- The fault codes (R220, D19). -/
def faultCode : Option FaultRecord → Nat
  | none => 0
  | some (.outOfBounds _ _) => 1
  | some (.unimplementedInstruction _ _) => 2
  | some (.stackOverflow _) => 3
  | some (.stackUnderflow _) => 4

/-! ### The call stack (10_state.md R25 to R27) -/

/-- `StkRead(o)`. -/
def State.stkRead (s : State) (o : Nat) : Byte := s.stk.getD o 0

/-- `StkWrite(o, b)`. -/
def State.stkWrite (s : State) (o : Nat) (b : Byte) : State := { s with stk := s.stk.set o b }

/-- `sp <- n`. -/
def State.setSp (s : State) (n : Nat) : State := { s with sp := n }

/-- A slot is free above sp. On R26's range (sp even, at most 2*STACK_DEPTH) it fails exactly when
sp = 2*STACK_DEPTH (R223; log 12). -/
def State.hasRoom (s : State) : Bool := s.sp + 2 ≤ 2 * s.cfg.stackDepth

/-- A return address is held below sp. On R26's range it fails exactly when sp = 0 (R224; log 12). -/
def State.hasReturn (s : State) : Bool := 2 ≤ s.sp

/-- Push: write the high byte, then the low byte, then move the pointer (R123, R57). -/
def State.push (s : State) (a : Word) : State :=
  ((s.stkWrite s.sp (hiByte a)).stkWrite (s.sp + 1) (loByte a)).setSp (s.sp + 2)

/-- The return address in the slot at offset o (R57). -/
def State.slot (s : State) (o : Nat) : Word := be16 (s.stkRead o) (s.stkRead (o + 1))

/-! ### Pixels (10_state.md R34, 44_display.md R180)

The set pixels in row-major order, each once. -/

/-- Row-major order: the upper row first, then the left pixel. -/
def Pixel.before (p q : Pixel) : Bool := p.2 < q.2 || (p.2 = q.2 && p.1 < q.1)

/-- FB[px][py]: 1 is set. -/
def Screen.get (fb : List Pixel) (p : Pixel) : Bool := fb.contains p

/-- Set a pixel, at its place in the order. -/
def Screen.insert (p : Pixel) : List Pixel → List Pixel
  | [] => [p]
  | q :: fb =>
    if p = q then q :: fb
    else if Pixel.before p q then p :: q :: fb
    else q :: Screen.insert p fb

/-- FB[px][py] <- b. -/
def Screen.set (fb : List Pixel) (p : Pixel) (b : Bool) : List Pixel :=
  if b then Screen.insert p fb else fb.filter (fun q => q ≠ p)

/-- The canonical form: row-major order, each pixel once and inside the grid. -/
abbrev Screen.wf (c : Config) (fb : List Pixel) : Prop :=
  fb.Pairwise (fun p q => Pixel.before p q = true) ∧ ∀ p ∈ fb, p.1 < c.fbWidth ∧ p.2 < c.fbHeight

/-- FB[px][py], as an observer reads one pixel. -/
def State.pixel (s : State) (p : Pixel) : Bool := Screen.get s.fb p

/-- FB <- fb. -/
def State.setFb (s : State) (fb : List Pixel) : State := { s with fb := fb }

/-! ### Keys (45_keypad_timers.md R200, R207) -/

/-- `KeyPressed(k)`: the step's sample for k 0 to 15, KEY_OOR for 16 to 255 (R200, D13). -/
def State.keyPressed (s : State) (k : Byte) : Bool :=
  if k.toNat < 16 then s.keys.getLsbD k.toNat else s.cfg.keyOor

/-- The 16 keys in ascending order (40_step_cycle.md R101). -/
def keyOrder : List RegIdx := [0, 1, 2, 3, 4, 5, 6, 7, 8, 9, 10, 11, 12, 13, 14, 15]

/-- The lowest-numbered pressed key of a sample (R101). -/
def lowestKey (keys : BitVec 16) : Option RegIdx := keyOrder.find? (fun k => keys.getLsbD k.val)

/-- `PollKeys()`: the step in state AwaitingKey (R101). -/
def State.pollKeys (s : State) : State :=
  match lowestKey s.keys with
  | some k => (s.setReg s.waitReg (BitVec.ofNat 8 k.val)).wake
  | none => s

/-! ### Tick and the host's inputs (40_step_cycle.md R111, R112) -/

/-- A timer after n Ticks: "decrements ... by 1 each, floored at 0" (R111). -/
def countDown (t : Byte) (n : Nat) : Byte := BitVec.ofNat 8 (t.toNat - n)

/-- n Tick events (R111): DT and ST only. -/
def State.ticks (s : State) (n : Nat) : State := { s with dt := countDown s.dt n, st := countDown s.st n }

/-- `Tick()` (R111); accepted in every state (D20). -/
def State.tick (s : State) : State := s.ticks 1

/-- The host's next input: the first of the script, else the free values (log 4). -/
def State.nextInput (s : State) : HostInput :=
  match s.script with
  | h :: _ => h
  | [] => ⟨Config.freeTicks s.samples, Config.freeKeys s.samples, Config.freeDraw s.samples⟩

/-- The key sample and the random byte of one Step, and no event signalled yet in it (R207, R153, R107). -/
def State.sample (s : State) (keys : BitVec 16) (draw : Byte) : State :=
  { s with keys := keys, draw := draw, events := [] }

/-- What happens outside between one Step and the next: the host's Ticks (R112), then a new sample (R207). -/
def State.hostMove (s : State) : State :=
  { (s.ticks s.nextInput.ticks).sample s.nextInput.keys s.nextInput.draw with
    script := s.script.tail, samples := s.samples + 1 }

/-! ### Reset (70_reset_and_hazards.md R250, R251) -/

/-- The state `Reset(font, program)` builds, the preconditions met (R250). The host's own fields stay (log 4). -/
def State.afterReset (s : State) (font program : List Byte) : State :=
  let c : Config := { s.cfg with font := font }
  { s with
    cfg := c
    v := Vector.replicate 16 0
    pc := BitVec.ofNat 16 c.progBase
    i := 0
    sp := 0
    stk := List.replicate (2 * c.stackDepth) 0
    dt := 0
    st := 0
    waitActive := false
    waitReg := 0
    fault := none
    mem := Memory.setRange c [] c.progBase program
    fb := []
    events := [] }

/-- `Reset(font, program)`: accepted in any state; fails with OutOfBounds if the program does not fit (R251(a),
R236); a font that is not 80 bytes and parameters outside R7 are outside the domain (R251(b), (c); log 17). -/
def State.resetEvent (s : State) (font program : List Byte) : Result :=
  if font.length ≠ 80 then .refused (.fontLength font.length)
  else if ¬ Config.Valid { s.cfg with font := font } then .refused .parameters
  else if s.cfg.memSize - s.cfg.progBase < program.length then .fault (.resetOutOfBounds program.length)
  else .next (s.afterReset font program)

/-! ### Placing an instruction where the next step fetches it (for `State.withFetchWord`; log 10, log 18) -/

/-- The address the next step fetches from: pc, or PROG_BASE where pc cannot be fetched from. -/
def State.fetchPlace (s : State) : Word :=
  if inBounds s.cfg s.pc.toNat 2 then s.pc else BitVec.ofNat 16 s.cfg.progBase

/-- The instruction word stored, high byte first, where the next step fetches (R56), in state Running with no fault
recorded, so that the next step does fetch. -/
def State.placeWord (s : State) (w : Word) : State :=
  { (s.putBytes s.fetchPlace.toNat [hiByte w, loByte w]) with
    pc := s.fetchPlace, waitActive := false, fault := none }

end Sys2Proof.Machine
end

