-- ==== Sys2Proof/Machine/Flags.lean ====
section
/-! DEFINITION. The flag computations (10_state.md R22, 42_load_alu.md R154): every flag goes to VF as 0 or 1. -/

namespace Sys2Proof.Machine

/-- A flag as the byte VF receives. -/
def flagByte (b : Bool) : Byte := if b then 1 else 0

/-- 8XY4: the true sum of two bytes, 0 to 510 (R147). -/
abbrev sum (a b : Byte) : Nat := a.toNat + b.toNat

/-- 8XY4: carry, "1 if sum > 255 else 0" (R147). -/
def carry (a b : Byte) : Byte := flagByte (255 < sum a b)

/-- 8XY5, 8XY7: the true difference, -255 to 255 (R148, R150). -/
abbrev diff (a b : Byte) : Int := (a.toNat : Int) - (b.toNat : Int)

/-- 8XY5, 8XY7: not borrow, "0 if diff < 0 else 1" (R148, R150). -/
def notBorrow (a b : Byte) : Byte := flagByte (0 ≤ diff a b)

/-- 8XY6: the bit shifted out, bit 0 (R149). -/
def shrOut (a : Byte) : Byte := a &&& 1

/-- 8XYE: the bit shifted out, bit 7 (R151). -/
def shlOut (a : Byte) : Byte := (a &&& 0x80) >>> 7

/-- FX1E: the true sum of I and V[x] (R162). -/
abbrev indexSum (i : Word) (a : Byte) : Nat := i.toNat + a.toNat

/-- FX1E: 1 if the sum passed 0xFFF, else 0 (R162). -/
def indexOverflow (i : Word) (a : Byte) : Byte := flagByte (0xFFF < indexSum i a)

end Sys2Proof.Machine
end

