-- ==== Sys2Proof/Machine/Operands.lean ====
section
/-! DEFINITION. Operand forms and results: skips and jumps (41_control_flow.md), the ALU results (42_load_alu.md
R154), the index register's values and the block moves' bytes (43_index_memory.md), the blit (44_display.md R182). -/

namespace Sys2Proof.Machine

/-! ### Control transfer -/

/-- The skip of R129: `pc <- (pc + 2) mod 65536` on the advanced pc when the condition holds. -/
def State.skipIf (s : State) (c : Bool) : State := s.setPc (if c then s.pc + 2 else s.pc)

/-- The jump of R122 and R124: pc takes the target; HaltRecommended exactly when the target is fa (R130). -/
def State.jump (s : State) (t : Word) : State :=
  if t = s.fetchAddr then (s.setPc t).signal .haltRecommended else s.setPc t

/-- BNNN's target, "NNN + V[0]", not reduced to 12 bits (R124, D16). -/
def offsetTarget (nnn : Word) (v0 : Byte) : Word := BitVec.ofNat 16 (nnn.toNat + v0.toNat)

/-! ### ALU results, modulo 256 (R154) -/

/-- "(V[R1] + NN) mod 256" (R142, R147). -/
def addByte (a b : Byte) : Byte := BitVec.ofNat 8 (sum a b)

/-- "diff mod 256 (wrap on negative)" (R148, R150). -/
def subByte (a b : Byte) : Byte := BitVec.ofInt 8 (diff a b)

/-- The logical right shift by one (R149). -/
def shrByte (a : Byte) : Byte := a >>> 1

/-- "(V[R1] << 1) mod 256" (R151). -/
def shlByte (a : Byte) : Byte := a <<< 1

/-! ### The index register -/

/-- FX1E: "if result exceeds 0xFFF, wrap mod 0x1000" (R162). -/
def indexAdd (i : Word) (a : Byte) : Word :=
  if 0xFFF < indexSum i a then BitVec.ofNat 16 (indexSum i a % 0x1000) else BitVec.ofNat 16 (indexSum i a)

/-- FX29: FONT_BASE + V[x] * 5 as an integer; the whole byte is multiplied (R163). -/
abbrev glyphAddr (c : Config) (a : Byte) : Nat := c.fontBase + a.toNat * 5

/-- FX29: what I receives; a free value where the address does not fit I's 16 bits, which the spec states no
result for (R163; log 9). With the default parameters it always fits. -/
def glyphIndex (c : Config) (a : Byte) : Word :=
  if glyphAddr c a < 65536 then BitVec.ofNat 16 (glyphAddr c a) else Config.freeGlyphAddr (glyphAddr c a)

/-! ### Block moves -/

/-- FX33: the decimal digits, hundreds first (R164). -/
def bcdDigits (a : Byte) : List Byte :=
  [BitVec.ofNat 8 (a.toNat / 100), BitVec.ofNat 8 (a.toNat / 10 % 10), BitVec.ofNat 8 (a.toNat % 10)]

/-- FX55: V[0], V[1], ..., V[x] (R165). -/
def State.firstRegs (s : State) (x : RegIdx) : List Byte := s.v.toList.take (x.val + 1)

/-- FX65: `for k = 0 .. x: V[k] <- b[k]`; registers above x keep their values (R166). -/
def State.loadRegs (s : State) (x : RegIdx) (bs : List Byte) : State :=
  { s with v := Vector.ofFn (fun k : RegIdx => if k ≤ x then bs.getD k.val 0 else s.reg k) }

/-! ### The sprite blit (R182) -/

/-- The eight columns of a sprite row; column 0 is bit 7. -/
def columns : List Nat := [0, 1, 2, 3, 4, 5, 6, 7]

/-- The pixel of a sprite's row and column at (vx, vy), wrapped (R182). -/
def spritePixel (c : Config) (vx vy row col : Nat) : Pixel := ((vx + col) % c.fbWidth, (vy + row) % c.fbHeight)

/-- One bit of the blit: XOR it into its pixel; a collision is a pixel that goes from set to unset (R182). -/
def blitBit (p : Pixel) (bit : Bool) (acc : List Pixel × Bool) : List Pixel × Bool :=
  let old := Screen.get acc.1 p
  let new := xor old bit
  (Screen.set acc.1 p new, acc.2 || (old && !new))

/-- One row of the blit, columns left to right (R182). -/
def blitRow (c : Config) (vx vy row : Nat) (b : Byte) (acc : List Pixel × Bool) : List Pixel × Bool :=
  columns.foldl (fun acc col => blitBit (spritePixel c vx vy row col) (b.getLsbD (7 - col)) acc) acc

/-- The rows of the blit from row `row` on (R182). -/
def blitRows (c : Config) (vx vy : Nat) : Nat → List Byte → List Pixel × Bool → List Pixel × Bool
  | _, [], acc => acc
  | row, b :: bs, acc => blitRows c vx vy (row + 1) bs (blitRow c vx vy row b acc)

/-- `DrawSprite(vx, vy, s)`: the new framebuffer and the collision result (R182). -/
def drawSprite (c : Config) (vx vy : Byte) (bs : List Byte) (fb : List Pixel) : List Pixel × Bool :=
  blitRows c vx.toNat vy.toNat 0 bs (fb, false)

end Sys2Proof.Machine
end

