-- ==== Sys2Proof/Machine/ControlFlow.lean ====
section
/-! DEFINITION. Control transfer (41_control_flow.md R120 to R130): 00EE, 1NNN, 2NNN, BNNN, 3XNN, 4XNN, 5XY0, 9XY0.
Each meaning runs on the state whose pc is already advanced to fa + 2 (R120; log 8). -/

namespace Sys2Proof.Machine

/-- 00EE `RET` (R121): "pop decrements by 2 before reading". -/
def execRet (s : State) : Result :=
  if s.hasReturn then .next ((s.setSp (s.sp - 2)).setPc (s.slot (s.sp - 2)))
  else .next (s.raise (.stackUnderflow s.fetchAddr))

/-- 1NNN `JP nnn` (R122). -/
def execJp (nnn : Word) (s : State) : Result := .next (s.jump nnn)

/-- 2NNN `CALL nnn` (R123): the advanced pc is pushed. -/
def execCall (nnn : Word) (s : State) : Result :=
  if s.hasRoom then .next ((s.push s.pc).setPc nnn)
  else .next (s.raise (.stackOverflow s.fetchAddr))

/-- BNNN `JP V0, nnn` (R124). -/
def execJpV0 (nnn : Word) (s : State) : Result := .next (s.jump (offsetTarget nnn (s.reg 0)))

/-- 3XNN `SE Vx, nn` (R125). -/
def execSeVxNn (x : RegIdx) (nn : Byte) (s : State) : Result := .next (s.skipIf (s.reg x = nn))

/-- 4XNN `SNE Vx, nn` (R126). -/
def execSneVxNn (x : RegIdx) (nn : Byte) (s : State) : Result := .next (s.skipIf (s.reg x ≠ nn))

/-- 5XY0 `SE Vx, Vy` (R127). -/
def execSeVxVy (x y : RegIdx) (s : State) : Result := .next (s.skipIf (s.reg x = s.reg y))

/-- 9XY0 `SNE Vx, Vy` (R128). -/
def execSneVxVy (x y : RegIdx) (s : State) : Result := .next (s.skipIf (s.reg x ≠ s.reg y))

end Sys2Proof.Machine
end

