-- ==== Sys2Proof/Machine/Display.lean ====
section
/-! DEFINITION. Framebuffer instructions (44_display.md R180 to R185): 00E0, DXYN. -/

namespace Sys2Proof.Machine

/-- 00E0 `CLS` (R181): every pixel 0, DisplayChanged signalled. -/
def execCls (s : State) : Result := .next ((s.setFb []).signal .displayChanged)

/-- DXYN `DRW Vx, Vy, n` (R183): the coordinates are read before VF is written; DisplayChanged is signalled once. -/
def execDrw (x y : RegIdx) (n : Nat) (s : State) : Result :=
  match s.memRead s.i.toNat n with
  | some bs =>
    let d := drawSprite s.cfg (s.reg x) (s.reg y) bs s.fb
    .next (((s.setFb d.1).setReg vf (flagByte d.2)).signal .displayChanged)
  | none => .next (s.raise (.outOfBounds s.i.toNat n))

end Sys2Proof.Machine
end

