-- ==== Sys2Proof/Machine/IndexMemory.lean ====
section
/-! DEFINITION. Index register and memory (43_index_memory.md R160 to R167): ANNN, FX1E, FX29, FX33, FX55, FX65.
The block moves do not change I (R167). -/

namespace Sys2Proof.Machine

/-- ANNN `LD I, nnn` (R161). -/
def execLdINnn (nnn : Word) (s : State) : Result := .next (s.setI nnn)

/-- FX1E `ADD I, Vx` (R162): I, then VF. -/
def execAddIVx (x : RegIdx) (s : State) : Result :=
  .next ((s.setI (indexAdd s.i (s.reg x))).setReg vf (indexOverflow s.i (s.reg x)))

/-- FX29 `LD F, Vx` (R163). -/
def execLdFVx (x : RegIdx) (s : State) : Result := .next (s.setI (glyphIndex s.cfg (s.reg x)))

/-- FX33 `LD B, Vx` (R164). -/
def execLdBVx (x : RegIdx) (s : State) : Result :=
  match s.memWrite s.i.toNat (bcdDigits (s.reg x)) with
  | some t => .next t
  | none => .next (s.raise (.outOfBounds s.i.toNat 3))

/-- FX55 `LD [I], Vx` (R165). -/
def execLdMemVx (x : RegIdx) (s : State) : Result :=
  match s.memWrite s.i.toNat (s.firstRegs x) with
  | some t => .next t
  | none => .next (s.raise (.outOfBounds s.i.toNat (x.val + 1)))

/-- FX65 `LD Vx, [I]` (R166). -/
def execLdVxMem (x : RegIdx) (s : State) : Result :=
  match s.memRead s.i.toNat (x.val + 1) with
  | some bs => .next (s.loadRegs x bs)
  | none => .next (s.raise (.outOfBounds s.i.toNat (x.val + 1)))

end Sys2Proof.Machine
end

