-- ==== Sys2Proof/Machine/KeypadTimers.lean ====
section
/-! DEFINITION. Keypad and timer instructions (45_keypad_timers.md R200 to R208): EX9E, EXA1, FX0A, FX07, FX15, FX18. -/

namespace Sys2Proof.Machine

/-- EX9E `SKP Vx` (R201). -/
def execSkpVx (x : RegIdx) (s : State) : Result := .next (s.skipIf (s.keyPressed (s.reg x)))

/-- EXA1 `SKNP Vx` (R202). -/
def execSknpVx (x : RegIdx) (s : State) : Result := .next (s.skipIf (!s.keyPressed (s.reg x)))

/-- FX0A `LD Vx, K` (R203): only the latch is set; the keys are not looked at. -/
def execLdVxK (x : RegIdx) (s : State) : Result := .next (s.await x)

/-- FX07 `LD Vx, DT` (R204). -/
def execLdVxDt (x : RegIdx) (s : State) : Result := .next (s.setReg x s.dt)

/-- FX15 `LD DT, Vx` (R205). -/
def execLdDtVx (x : RegIdx) (s : State) : Result := .next (s.setDt (s.reg x))

/-- FX18 `LD ST, Vx` (R206). -/
def execLdStVx (x : RegIdx) (s : State) : Result := .next (s.setSt (s.reg x))

end Sys2Proof.Machine
end

