-- ==== Sys2Proof/Machine/LoadAlu.lean ====
section
/-! DEFINITION. Register load, arithmetic and logic (42_load_alu.md R140 to R155): 6XNN, 7XNN, 8XY0 to 8XY7, 8XYE,
CXNN. The statements of a row run in the order written, each on the register file the one before left (R155). -/

namespace Sys2Proof.Machine

/-- 6XNN `LD Vx, nn` (R141). -/
def execLdVxNn (x : RegIdx) (nn : Byte) (s : State) : Result := .next (s.setReg x nn)

/-- 7XNN `ADD Vx, nn` (R142): no carry is reported. -/
def execAddVxNn (x : RegIdx) (nn : Byte) (s : State) : Result := .next (s.setReg x (addByte (s.reg x) nn))

/-- 8XY0 `LD Vx, Vy` (R143). -/
def execLdVxVy (x y : RegIdx) (s : State) : Result := .next (s.setReg x (s.reg y))

/-- 8XY1 `OR Vx, Vy` (R144). -/
def execOrVxVy (x y : RegIdx) (s : State) : Result := .next (s.setReg x (s.reg x ||| s.reg y))

/-- 8XY2 `AND Vx, Vy` (R145). -/
def execAndVxVy (x y : RegIdx) (s : State) : Result := .next (s.setReg x (s.reg x &&& s.reg y))

/-- 8XY3 `XOR Vx, Vy` (R146). -/
def execXorVxVy (x y : RegIdx) (s : State) : Result := .next (s.setReg x (s.reg x ^^^ s.reg y))

/-- 8XY4 `ADD Vx, Vy` (R147): the sum, then the carry. -/
def execAddVxVy (x y : RegIdx) (s : State) : Result :=
  .next ((s.setReg x (addByte (s.reg x) (s.reg y))).setReg vf (carry (s.reg x) (s.reg y)))

/-- 8XY5 `SUB Vx, Vy` (R148): V[x] - V[y], then not-borrow. -/
def execSubVxVy (x y : RegIdx) (s : State) : Result :=
  .next ((s.setReg x (subByte (s.reg x) (s.reg y))).setReg vf (notBorrow (s.reg x) (s.reg y)))

/-- 8XY7 `SUBN Vx, Vy` (R150): V[y] - V[x], then not-borrow. -/
def execSubnVxVy (x y : RegIdx) (s : State) : Result :=
  .next ((s.setReg x (subByte (s.reg y) (s.reg x))).setReg vf (notBorrow (s.reg y) (s.reg x)))

/-- 8XY6 `SHR Vx` (R149): the flag first, then the shift of the register as it then stands; y is ignored (R84). -/
def execShrVx (x _y : RegIdx) (s : State) : Result :=
  let s1 := s.setReg vf (shrOut (s.reg x))
  .next (s1.setReg x (shrByte (s1.reg x)))

/-- 8XYE `SHL Vx` (R151): the flag first, then the shift of the register as it then stands; y is ignored (R84). -/
def execShlVx (x _y : RegIdx) (s : State) : Result :=
  let s1 := s.setReg vf (shlOut (s.reg x))
  .next (s1.setReg x (shlByte (s1.reg x)))

/-- CXNN `RND Vx, nn` (R152): the step's draw (R153) masked. -/
def execRndVxNn (x : RegIdx) (nn : Byte) (s : State) : Result := .next (s.setReg x (s.draw &&& nn))

end Sys2Proof.Machine
end

