-- ==== Sys2Proof/Machine/Cycle.lean ====
section
/-! DEFINITION. The Step event (40_step_cycle.md R100 to R106) and the events the core accepts (00_scope.md R12). -/

namespace Sys2Proof.Machine

/-- The word in Memory at pc, big-endian (20_memory.md R56, 40_step_cycle.md R102). -/
def State.fetchWord (s : State) : Word := be16 (s.byteAt s.pc.toNat) (s.byteAt (s.pc.toNat + 1))

/-- The step in state Running (R100, R106): fetch with its bounds check (R102), advance (R103), decode (R104),
execute (R105). -/
def runInstruction (s : State) : Result :=
  if inBounds s.cfg s.pc.toNat 2 then
    match decodeWord s.fetchWord with
    | some i => exec i s.advance
    | none => .next (s.advance.raise (.unimplementedInstruction s.fetchWord s.pc))
  else .next (s.raise (.outOfBounds s.pc.toNat 2))

/-- One Step event with the sample the state holds (R100). A faulted core has no step (R108; log 6). -/
def stepEvent (s : State) : Result :=
  match s.fault with
  | some f => .fault (.stopped f)
  | none => if s.waitActive then .next s.pollKeys else runInstruction s

/-- The host's Ticks and sample since the last Step (R112, R207), then the Step event. -/
def stepWithHost (s : State) : Result := stepEvent s.hostMove

/-- What each input event does (R12). -/
def onEvent (e : HostEvent) (s : State) : Result :=
  match e with
  | .step keys draw => stepEvent (s.sample keys draw)
  | .tick => .next s.tick
  | .reset font program => s.resetEvent font program

end Sys2Proof.Machine
end

