-- ==== Sys2Proof/Machine/Step.lean ====
section
/-! DEFINITION. The machine's step, and a state whose next step runs a given instruction. -/

namespace Sys2Proof.Machine

/-- One step of the machine: what the host did since the last one, then one Step event (40_step_cycle.md R100, R112). -/
def step (s : State) : Host.Outcome State Fault Refusal := stepWithHost s

/-- `s` with the instruction whose bits are `w`, numbered as spec/opcode_table.json numbers them, stored where the
next step fetches (log 10, log 18). -/
def State.withFetchWord (s : State) (nbits w : Nat) : State := s.placeWord (BitVec.ofNat 16 (w % 2 ^ nbits))

end Sys2Proof.Machine
end

