-- ==== Sys2Proof/Safety.lean ====
section
/-! DEFINITION. The terms in which the statements are made: what an instruction leaves unchanged, the invariants of
10_state.md R36, the parked state of 40_step_cycle.md R110, the blit's declarative reading (44_display.md R182). -/

namespace Sys2Proof.Machine

/-! ### Frames -/

/-- The parts of the state beside the general registers. -/
inductive Part where
  | pc | index | stack | delay | sound | latch | fault | memory | screen | host | events
  deriving DecidableEq, Repr

/-- A part holds the same in both states. Memory, the screen and the stack store are compared through the model's own
reads, so at every address, pixel and offset. `host` is the parameters and the inputs. -/
def Part.same : Part → State → State → Prop
  | .pc, s, t => t.pc = s.pc
  | .index, s, t => t.i = s.i
  | .stack, s, t => t.sp = s.sp ∧ ∀ o, t.stkRead o = s.stkRead o
  | .delay, s, t => t.dt = s.dt
  | .sound, s, t => t.st = s.st
  | .latch, s, t => t.waitActive = s.waitActive ∧ t.waitReg = s.waitReg
  | .fault, s, t => t.fault = s.fault
  | .memory, s, t => ∀ a, t.byteAt a = s.byteAt a
  | .screen, s, t => ∀ p, t.pixel p = s.pixel p
  | .host, s, t => t.cfg = s.cfg ∧ t.keys = s.keys ∧ t.draw = s.draw ∧ t.script = s.script ∧ t.samples = s.samples
  | .events, s, t => t.events = s.events

/-- From `s` to `t` nothing changed but the registers listed and the parts listed. -/
def Frame (regs : List RegIdx) (parts : List Part) (s t : State) : Prop :=
  (∀ r, r ∉ regs → t.reg r = s.reg r) ∧ ∀ p, p ∉ parts → p.same s t

/-! ### Invariants (10_state.md R36) -/

/-- Memory and the framebuffer are in their canonical form, inside the store and the grid; the parameters are valid. -/
abbrev State.Canonical (s : State) : Prop :=
  s.cfg.Valid ∧ Memory.wf s.cfg s.mem ∧ Screen.wf s.cfg s.fb

/-- R26, R36(c): sp is even and 0 ≤ sp ≤ 2*STACK_DEPTH, and STK has 2*STACK_DEPTH bytes (R27). -/
abbrev State.StackShape (s : State) : Prop :=
  s.sp % 2 = 0 ∧ s.sp ≤ 2 * s.cfg.stackDepth ∧ s.stk.length = 2 * s.cfg.stackDepth

/-- R36(b): I ≤ 0xFFF, or FONT_BASE + 1275 where that is more. -/
abbrev State.IndexBound (s : State) : Prop := s.i.toNat ≤ max 0xFFF (s.cfg.fontBase + 1275)

/-- R36(d): pc ≤ max(0x10FE, MEM_SIZE + 2), and every return address held is at most MEM_SIZE, "an advanced pc
pushed earlier". -/
abbrev State.PcBound (s : State) : Prop :=
  s.pc.toNat ≤ max 0x10FE (s.cfg.memSize + 2) ∧
  ∀ k, 2 * k + 2 ≤ s.sp → (s.slot (2 * k)).toNat ≤ s.cfg.memSize

/-! ### The end of a run (40_step_cycle.md R110) -/

/-- "*parked at a* when `fault` = `None`, `wait.active` = 0, pc = a, and the two bytes at a decode to 1NNN with
nnn = a" (R110). -/
abbrev State.Parked (s : State) (a : Word) : Prop :=
  s.fault = none ∧ s.waitActive = false ∧ s.pc = a ∧ a.toNat + 2 ≤ s.cfg.memSize ∧
  decode [s.byteAt a.toNat, s.byteAt (a.toNat + 1)] = .ok (.jp a, [])

/-! ### The blit, read as a set of pixels (44_display.md R182) -/

/-- A 1 bit of the sprite `bs`, drawn at (vx, vy), lands on pixel `p`: row `row`, column `col` with column 0 the most
significant bit, at ((vx + col) mod FB_WIDTH, (vy + row) mod FB_HEIGHT). -/
def SpriteCovers (c : Config) (vx vy : Nat) (bs : List Byte) (p : Pixel) : Prop :=
  ∃ row col, row < bs.length ∧ col < 8 ∧ (bs.getD row 0).getLsbD (7 - col) = true ∧
    p = ((vx + col) % c.fbWidth, (vy + row) % c.fbHeight)

/-- The sprite DXYN reads: the n bytes of Memory at I (R183). -/
def State.spriteBytes (s : State) (n : Nat) : List Byte := (List.range n).map (fun k => s.byteAt (s.i.toNat + k))

/-! ### Which instructions do what (10_state.md R22, R38) -/

/-- The instructions that write VF as a flag (R22). -/
def writesFlag : Instr → Bool
  | .cls => false
  | .ret => false
  | .jp _ => false
  | .call _ => false
  | .seVxNn _ _ => false
  | .sneVxNn _ _ => false
  | .seVxVy _ _ => false
  | .ldVxNn _ _ => false
  | .addVxNn _ _ => false
  | .ldVxVy _ _ => false
  | .orVxVy _ _ => false
  | .andVxVy _ _ => false
  | .xorVxVy _ _ => false
  | .addVxVy _ _ => true
  | .subVxVy _ _ => true
  | .shrVx _ _ => true
  | .subnVxVy _ _ => true
  | .shlVx _ _ => true
  | .sneVxVy _ _ => false
  | .ldINnn _ => false
  | .jpV0 _ => false
  | .rndVxNn _ _ => false
  | .drw _ _ _ => true
  | .skpVx _ => false
  | .sknpVx _ => false
  | .ldVxDt _ => false
  | .ldVxK _ => false
  | .ldDtVx _ => false
  | .ldStVx _ => false
  | .addIVx _ => true
  | .ldFVx _ => false
  | .ldBVx _ => false
  | .ldMemVx _ => false
  | .ldVxMem _ => false

/-- The registers an instruction names as its destination (R38, column "writes"); FX65 writes V[0] to V[x]. -/
def destinations : Instr → List RegIdx
  | .cls => []
  | .ret => []
  | .jp _ => []
  | .call _ => []
  | .seVxNn _ _ => []
  | .sneVxNn _ _ => []
  | .seVxVy _ _ => []
  | .ldVxNn x _ => [x]
  | .addVxNn x _ => [x]
  | .ldVxVy x _ => [x]
  | .orVxVy x _ => [x]
  | .andVxVy x _ => [x]
  | .xorVxVy x _ => [x]
  | .addVxVy x _ => [x]
  | .subVxVy x _ => [x]
  | .shrVx x _ => [x]
  | .subnVxVy x _ => [x]
  | .shlVx x _ => [x]
  | .sneVxVy _ _ => []
  | .ldINnn _ => []
  | .jpV0 _ => []
  | .rndVxNn x _ => [x]
  | .drw _ _ _ => []
  | .skpVx _ => []
  | .sknpVx _ => []
  | .ldVxDt x => [x]
  | .ldVxK _ => []
  | .ldDtVx _ => []
  | .ldStVx _ => []
  | .addIVx _ => []
  | .ldFVx _ => []
  | .ldBVx _ => []
  | .ldMemVx _ => []
  | .ldVxMem x => keyOrder.filter (fun k => k ≤ x)

/-- The instructions that read the host's answers: the key sample or the random byte (R38). -/
def readsHost : Instr → Bool
  | .cls => false
  | .ret => false
  | .jp _ => false
  | .call _ => false
  | .seVxNn _ _ => false
  | .sneVxNn _ _ => false
  | .seVxVy _ _ => false
  | .ldVxNn _ _ => false
  | .addVxNn _ _ => false
  | .ldVxVy _ _ => false
  | .orVxVy _ _ => false
  | .andVxVy _ _ => false
  | .xorVxVy _ _ => false
  | .addVxVy _ _ => false
  | .subVxVy _ _ => false
  | .shrVx _ _ => false
  | .subnVxVy _ _ => false
  | .shlVx _ _ => false
  | .sneVxVy _ _ => false
  | .ldINnn _ => false
  | .jpV0 _ => false
  | .rndVxNn _ _ => true
  | .drw _ _ _ => false
  | .skpVx _ => true
  | .sknpVx _ => true
  | .ldVxDt _ => false
  | .ldVxK _ => false
  | .ldDtVx _ => false
  | .ldStVx _ => false
  | .addIVx _ => false
  | .ldFVx _ => false
  | .ldBVx _ => false
  | .ldMemVx _ => false
  | .ldVxMem _ => false

end Sys2Proof.Machine
end

