-- ==== Sys2Proof/Certificates/Slice0/Obligations.lean ====
section
/-! DEFINITION. The statements for the provers. An instruction's statement is about `exec`, whose state has pc already
advanced to fa + 2 (40_step_cycle.md R103; log 8), so "pc unchanged" there means the next sequential instruction;
`StepRunsTheDecodedInstruction` carries each of them to `step`. -/

open Sys2Proof Sys2Proof.Machine

/-! ### Encoding (30_encoding.md) -/

/-- Four words read by hand from the encoding column of R86, one of them the document's unimplemented 0x0FFF. -/
def Obligations.SampleWordsDecode : Prop :=
  decode [0xA2, 0xF0] = .ok (.ldINnn 0x2F0, []) ∧
  decode [0x83, 0x76] = .ok (.shrVx 3 7, []) ∧
  decode [0xD0, 0x12, 0xFF] = .ok (.drw 0 1 2, [0xFF]) ∧
  decode [0x0F, 0xFF] = .error (.unimplemented 0x0FFF)

/-- Decoding the bytes of a well-formed instruction gives it back, whatever follows: no bit of an encoding is
dropped (R82, R86). -/
def Obligations.EncodeThenDecode : Prop :=
  ∀ (i : Instr) (rest : List Byte), i.wellFormed = true → decode (encode i ++ rest) = .ok (i, rest)

/-- Each word has one meaning: what the decoder reads is well-formed and encodes to the word it was read from. -/
def Obligations.DecodeThenEncode : Prop :=
  ∀ (w : Word) (i : Instr), decodeWord w = some i → i.wellFormed = true ∧ encodeWord i = w

/-- R83: a word is an instruction of a row exactly when `op & mask == match`. -/
def Obligations.DecodeIsTheMaskMatch : Prop :=
  ∀ (w : Word), ∀ r ∈ opcodeMap, r.fits w = true ↔ ∃ i, decodeWord w = some i ∧ i.row = r

/-- R83: "The 34 patterns are pairwise disjoint, so at most one matches", and there are 34 of them. -/
def Obligations.OpcodeRowsAreDisjoint : Prop :=
  opcodeMap.length = 34 ∧
  opcodeMap.Pairwise (fun r q => ∀ w : Word, ¬ (r.fits w = true ∧ q.fits w = true))

/-! ### The step cycle (40_step_cycle.md, 60_exceptions.md) -/

/-- R100 to R105: an unfaulted Running core whose two bytes at pc decode to `i` runs `i` on the state after the host's
move with pc advanced by 2; the host's move changes only the timers, the inputs and the event list. -/
def Obligations.StepRunsTheDecodedInstruction : Prop :=
  ∀ (s : State) (i : Instr), s.fault = none → s.waitActive = false → s.pc.toNat + 2 ≤ s.cfg.memSize →
    decode [s.byteAt s.pc.toNat, s.byteAt (s.pc.toNat + 1)] = .ok (i, []) →
    step s = exec i { s.hostMove with pc := s.pc + 2 } ∧
    Frame [] [.delay, .sound, .host, .events] s s.hostMove ∧ s.hostMove.cfg = s.cfg ∧ s.hostMove.events = []

/-- The host's move is the number of Ticks its next input names, one at a time, then the new sample; with a scripted
input that input is used (the model's form of R112 and R207: log 4, log 5). -/
def Obligations.HostMoveIsTicksThenSample : Prop :=
  ∀ (s : State),
    s.hostMove = { State.tick^[s.nextInput.ticks] s with
      keys := s.nextInput.keys, draw := s.nextInput.draw, events := [],
      script := s.script.tail, samples := s.samples + 1 } ∧
    ∀ h rest, s.script = h :: rest → s.nextInput = h

/-- R102, R221: a fetch past the end of Memory faults with pc not advanced and nothing else changed. -/
def Obligations.FetchPastMemoryFaults : Prop :=
  ∀ (s : State), s.fault = none → s.waitActive = false → s.cfg.memSize < s.pc.toNat + 2 →
    ∃ t, step s = .next t ∧ t.fault = some (.outOfBounds s.pc.toNat 2) ∧ Frame [] [.fault] s.hostMove t

/-- R88, R222: a word that fits no row of the opcode map raises UnimplementedInstruction(opcode, fa) and signals
FatalError(opcode, fa); pc = fa + 2 is conflict C1's reading; nothing else changes. -/
def Obligations.UnimplementedWordFaults : Prop :=
  ∀ (s : State), s.fault = none → s.waitActive = false → s.pc.toNat + 2 ≤ s.cfg.memSize →
    (∀ r ∈ opcodeMap, r.fits (be16 (s.byteAt s.pc.toNat) (s.byteAt (s.pc.toNat + 1))) = false) →
    ∃ t, step s = .next t ∧
      t.fault = some (.unimplementedInstruction (be16 (s.byteAt s.pc.toNat) (s.byteAt (s.pc.toNat + 1))) s.pc) ∧
      t.events = [.fatalError (be16 (s.byteAt s.pc.toNat) (s.byteAt (s.pc.toNat + 1))) s.pc] ∧
      t.pc.toNat = (s.pc.toNat + 2) % 65536 ∧
      Frame [] [.pc, .fault, .events] s.hostMove t

/-- R101: a step in AwaitingKey changes nothing when no key is down; otherwise the lowest pressed key goes into the
recorded register and the core is back in Running. It fetches nothing, signals nothing, and leaves wait.reg. `hostMove`
carries this step's key sample. -/
def Obligations.PollTakesTheLowestKey : Prop :=
  ∀ (s : State), s.fault = none → s.waitActive = true →
    ((∀ k : RegIdx, s.hostMove.keys.getLsbD k.val = false) → step s = .next s.hostMove) ∧
    ∀ k : RegIdx, s.hostMove.keys.getLsbD k.val = true → (∀ j : RegIdx, j < k → s.hostMove.keys.getLsbD j.val = false) →
      ∃ t, step s = .next t ∧ (t.reg s.waitReg).toNat = k.val ∧ t.waitActive = false ∧ t.waitReg = s.waitReg ∧
        t.events = [] ∧ Frame [s.waitReg] [.latch] s.hostMove t

/-- R108, U6: no Step exists while a fault is recorded (log 6). -/
def Obligations.FaultedCoreHasNoStep : Prop :=
  ∀ (s : State) (f : FaultRecord), s.fault = some f → step s = .fault (.stopped f)

/-- "a Step never blocks": a core with no fault recorded always answers a next state, whatever stands in Memory. -/
def Obligations.UnfaultedCoreAlwaysSteps : Prop :=
  ∀ (s : State), s.fault = none → ∃ t, step s = .next t

/-- R111: a Tick, in every state, takes 1 from each timer, floored at 0, and changes nothing else. -/
def Obligations.TickDecrementsTheTimers : Prop :=
  ∀ (s : State), ∃ t, onEvent .tick s = .next t ∧ t.dt.toNat = s.dt.toNat - 1 ∧ t.st.toNat = s.st.toNat - 1 ∧
    Frame [] [.delay, .sound] s t

/-- R110: in a parked state every Step leaves the core as the host's move left it and signals HaltRecommended. -/
def Obligations.ParkedCoreStaysParked : Prop :=
  ∀ (s : State) (a : Word), s.Parked a →
    ∃ t, step s = .next t ∧ t.events = [.haltRecommended] ∧ Frame [] [.events] s.hostMove t ∧ t.Parked a

/-- R66: a byte stored by FX55 is seen by the fetch of the very next step: after FX55 with I = pc and x ≥ 1 the next
fetch reads V[0], V[1] as the word at pc. -/
def Obligations.StoreIsSeenByTheNextFetch : Prop :=
  ∀ (s : State) (x : RegIdx), 1 ≤ x.val → s.i = s.pc → s.i.toNat + x.val + 1 ≤ s.cfg.memSize →
    ∃ t, exec (.ldMemVx x) s = .next t ∧ t.fetchWord = be16 (s.reg 0) (s.reg 1)

/-! ### Reset (70_reset_and_hazards.md) -/

/-- R250, R37: what Reset(font, program) leaves, under the preconditions of R251. The zeros of the registers, I, the
timers, STK and the fill of Memory are the spec's decision D9. -/
def Obligations.ResetLeaves : Prop :=
  ∀ (s : State) (font program : List Byte), Config.Valid { s.cfg with font := font } →
    program.length ≤ s.cfg.memSize - s.cfg.progBase →
    ∃ t, onEvent (.reset font program) s = .next t ∧
      t.cfg = { s.cfg with font := font } ∧ t.pc.toNat = s.cfg.progBase ∧ (∀ r, t.reg r = 0) ∧ t.i = 0 ∧
      t.sp = 0 ∧ (∀ o, t.stkRead o = 0) ∧ t.dt = 0 ∧ t.st = 0 ∧ t.waitActive = false ∧ t.waitReg = 0 ∧
      t.fault = none ∧ (∀ p, t.pixel p = false) ∧ t.events = [] ∧
      ∀ a, t.byteAt a =
        if s.cfg.progBase ≤ a ∧ a < s.cfg.progBase + program.length then program.getD (a - s.cfg.progBase) 0
        else if s.cfg.fontBase ≤ a ∧ a < s.cfg.fontBase + 80 then font.getD (a - s.cfg.fontBase) 0
        else 0

/-- R251: a program that does not fit makes Reset fail with OutOfBounds; a font that is not 80 bytes is outside the
domain (U21; the model refuses it, log 17). -/
def Obligations.ResetPreconditions : Prop :=
  ∀ (s : State) (font program : List Byte),
    (Config.Valid { s.cfg with font := font } → s.cfg.memSize - s.cfg.progBase < program.length →
      onEvent (.reset font program) s = .fault (.resetOutOfBounds program.length)) ∧
    (font.length ≠ 80 → onEvent (.reset font program) s = .refused (.fontLength font.length))

/-- `State.reset` is what the event Reset with the default font and an empty program makes of it, and meets every
invariant of R36 (the default parameters and the inputs' first values are the model's: log 2, log 4). -/
def Obligations.StateResetIsAResetState : Prop :=
  onEvent (.reset customaryFont []) State.reset = .next State.reset ∧
  State.reset.Canonical ∧ State.reset.StackShape ∧ State.reset.IndexBound ∧ State.reset.PcBound

/-! ### Control transfer (41_control_flow.md) -/

/-- R122: 1NNN jumps to nnn; HaltRecommended exactly when nnn is the fetch address (pc - 2 on the advanced pc). -/
def Obligations.JumpGoesToItsAddress : Prop :=
  ∀ (s : State) (nnn : Word), ∃ t, exec (.jp nnn) s = .next t ∧ t.pc = nnn ∧
    t.events = s.events ++ (if nnn = s.pc - 2 then [.haltRecommended] else []) ∧ Frame [] [.pc, .events] s t

/-- R124: BNNN jumps to nnn + V[0], not reduced to 12 bits; the same signal. -/
def Obligations.OffsetJumpAddsV0 : Prop :=
  ∀ (s : State) (nnn : Word), (Instr.jpV0 nnn).wellFormed = true →
    ∃ t, exec (.jpV0 nnn) s = .next t ∧ t.pc.toNat = nnn.toNat + (s.reg 0).toNat ∧
      t.events = s.events ++ (if nnn.toNat + (s.reg 0).toNat = (s.pc - 2).toNat then [.haltRecommended] else []) ∧
      Frame [] [.pc, .events] s t

/-- R125, R126: 3XNN skips exactly when V[x] = nn and 4XNN exactly when not; a skip adds 2 to the advanced pc. -/
def Obligations.ImmediateSkips : Prop :=
  ∀ (s : State) (x : RegIdx) (nn : Byte),
    (∃ t, exec (.seVxNn x nn) s = .next t ∧
      t.pc.toNat = (if (s.reg x).toNat = nn.toNat then (s.pc.toNat + 2) % 65536 else s.pc.toNat) ∧
      Frame [] [.pc] s t) ∧
    (∃ t, exec (.sneVxNn x nn) s = .next t ∧
      t.pc.toNat = (if (s.reg x).toNat ≠ nn.toNat then (s.pc.toNat + 2) % 65536 else s.pc.toNat) ∧
      Frame [] [.pc] s t)

/-- R127, R128: 5XY0 skips exactly when V[x] = V[y] and 9XY0 exactly when not. -/
def Obligations.RegisterSkips : Prop :=
  ∀ (s : State) (x y : RegIdx),
    (∃ t, exec (.seVxVy x y) s = .next t ∧
      t.pc.toNat = (if (s.reg x).toNat = (s.reg y).toNat then (s.pc.toNat + 2) % 65536 else s.pc.toNat) ∧
      Frame [] [.pc] s t) ∧
    (∃ t, exec (.sneVxVy x y) s = .next t ∧
      t.pc.toNat = (if (s.reg x).toNat ≠ (s.reg y).toNat then (s.pc.toNat + 2) % 65536 else s.pc.toNat) ∧
      Frame [] [.pc] s t)

/-- R123: with a free slot, 2NNN writes the advanced pc, high byte first, at sp, adds 2 to sp and jumps to nnn; no
other byte of STK changes. -/
def Obligations.CallPushesTheReturnAddress : Prop :=
  ∀ (s : State) (nnn : Word), s.StackShape → s.sp ≠ 2 * s.cfg.stackDepth →
    ∃ t, exec (.call nnn) s = .next t ∧ t.pc = nnn ∧ t.sp = s.sp + 2 ∧
      (t.stkRead s.sp).toNat = s.pc.toNat / 256 ∧ (t.stkRead (s.sp + 1)).toNat = s.pc.toNat % 256 ∧
      (∀ o, o ≠ s.sp → o ≠ s.sp + 1 → t.stkRead o = s.stkRead o) ∧ Frame [] [.pc, .stack] s t

/-- R123, R223 (decision D8): 2NNN with every slot in use raises StackOverflow(fa) and changes nothing else. -/
def Obligations.CallOnAFullStackFaults : Prop :=
  ∀ (s : State) (nnn : Word), s.sp = 2 * s.cfg.stackDepth →
    ∃ t, exec (.call nnn) s = .next t ∧ t.fault = some (.stackOverflow (s.pc - 2)) ∧ Frame [] [.fault] s t

/-- R121: with a return address held, 00EE takes 2 from sp and pc becomes the two bytes there, high byte first; STK
keeps its bytes. -/
def Obligations.ReturnPopsTheReturnAddress : Prop :=
  ∀ (s : State), s.StackShape → s.sp ≠ 0 →
    ∃ t, exec .ret s = .next t ∧ t.sp = s.sp - 2 ∧
      t.pc.toNat = (s.stkRead (s.sp - 2)).toNat * 256 + (s.stkRead (s.sp - 2 + 1)).toNat ∧
      (∀ o, t.stkRead o = s.stkRead o) ∧ Frame [] [.pc, .stack] s t

/-- R121, R224 (decision D8): 00EE with an empty stack raises StackUnderflow(fa) and changes nothing else. -/
def Obligations.ReturnOnAnEmptyStackFaults : Prop :=
  ∀ (s : State), s.sp = 0 →
    ∃ t, exec .ret s = .next t ∧ t.fault = some (.stackUnderflow (s.pc - 2)) ∧ Frame [] [.fault] s t

/-- Q12: a call followed at its target by a return restores pc to the address after the call, and sp, whatever the
return's own fetch left in pc. -/
def Obligations.CallThenReturn : Prop :=
  ∀ (s : State) (nnn : Word), s.StackShape → s.sp ≠ 2 * s.cfg.stackDepth →
    ∃ t u, exec (.call nnn) s = .next t ∧ exec .ret t.advance = .next u ∧ u.pc = s.pc ∧ u.sp = s.sp

/-! ### Load, arithmetic, logic (42_load_alu.md) -/

/-- R141: 6XNN. -/
def Obligations.LoadImmediate : Prop :=
  ∀ (s : State) (x : RegIdx) (nn : Byte), ∃ t, exec (.ldVxNn x nn) s = .next t ∧ t.reg x = nn ∧ Frame [x] [] s t

/-- R142: 7XNN adds modulo 256; VF is not written unless it is x. -/
def Obligations.AddImmediate : Prop :=
  ∀ (s : State) (x : RegIdx) (nn : Byte), ∃ t, exec (.addVxNn x nn) s = .next t ∧
    (t.reg x).toNat = ((s.reg x).toNat + nn.toNat) % 256 ∧ Frame [x] [] s t

/-- R143: 8XY0. -/
def Obligations.CopyRegister : Prop :=
  ∀ (s : State) (x y : RegIdx), ∃ t, exec (.ldVxVy x y) s = .next t ∧ t.reg x = s.reg y ∧ Frame [x] [] s t

/-- R144, R145, R146: 8XY1, 8XY2, 8XY3 act on the 8 bits independently and do not write VF unless it is x. -/
def Obligations.LogicActsBitwise : Prop :=
  ∀ (s : State) (x y : RegIdx),
    (∃ t, exec (.orVxVy x y) s = .next t ∧ Frame [x] [] s t ∧
      ∀ k < 8, (t.reg x).getLsbD k = ((s.reg x).getLsbD k || (s.reg y).getLsbD k)) ∧
    (∃ t, exec (.andVxVy x y) s = .next t ∧ Frame [x] [] s t ∧
      ∀ k < 8, (t.reg x).getLsbD k = ((s.reg x).getLsbD k && (s.reg y).getLsbD k)) ∧
    (∃ t, exec (.xorVxVy x y) s = .next t ∧ Frame [x] [] s t ∧
      ∀ k < 8, (t.reg x).getLsbD k = xor ((s.reg x).getLsbD k) ((s.reg y).getLsbD k))

/-- R147: 8XY4. With x = 15 VF ends as the carry and the sum is lost (R155, decision D12). -/
def Obligations.AddSetsTheCarry : Prop :=
  ∀ (s : State) (x y : RegIdx), ∃ t, exec (.addVxVy x y) s = .next t ∧
    (x ≠ 15 → (t.reg x).toNat = ((s.reg x).toNat + (s.reg y).toNat) % 256) ∧
    (t.reg 15).toNat = (if (s.reg x).toNat + (s.reg y).toNat > 255 then 1 else 0) ∧ Frame [x, 15] [] s t

/-- R148: 8XY5. With x = 15 VF ends as the flag (R155, decision D12). -/
def Obligations.SubtractSetsNotBorrow : Prop :=
  ∀ (s : State) (x y : RegIdx), ∃ t, exec (.subVxVy x y) s = .next t ∧
    (x ≠ 15 → ((t.reg x).toNat : Int) = (((s.reg x).toNat : Int) - (s.reg y).toNat) % 256) ∧
    (t.reg 15).toNat = (if (s.reg x).toNat < (s.reg y).toNat then 0 else 1) ∧ Frame [x, 15] [] s t

/-- R150: 8XY7, the operands exchanged. With x = 15 VF ends as the flag (R155, decision D12). -/
def Obligations.ReverseSubtractSetsNotBorrow : Prop :=
  ∀ (s : State) (x y : RegIdx), ∃ t, exec (.subnVxVy x y) s = .next t ∧
    (x ≠ 15 → ((t.reg x).toNat : Int) = (((s.reg y).toNat : Int) - (s.reg x).toNat) % 256) ∧
    (t.reg 15).toNat = (if (s.reg y).toNat < (s.reg x).toNat then 0 else 1) ∧ Frame [x, 15] [] s t

/-- R149: 8XY6, whatever y (R84). With x = 15 the result is 0 (R155, decision D12). -/
def Obligations.ShiftRight : Prop :=
  ∀ (s : State) (x y : RegIdx), ∃ t, exec (.shrVx x y) s = .next t ∧ Frame [x, 15] [] s t ∧
    if x = 15 then (t.reg 15).toNat = 0
    else (t.reg x).toNat = (s.reg x).toNat / 2 ∧ (t.reg 15).toNat = (s.reg x).toNat % 2

/-- R151: 8XYE, whatever y (R84). With x = 15 VF is 2 times the old bit 7 (R155, decision D12). -/
def Obligations.ShiftLeft : Prop :=
  ∀ (s : State) (x y : RegIdx), ∃ t, exec (.shlVx x y) s = .next t ∧ Frame [x, 15] [] s t ∧
    if x = 15 then (t.reg 15).toNat = 2 * ((s.reg 15).toNat / 128)
    else (t.reg x).toNat = (s.reg x).toNat * 2 % 256 ∧ (t.reg 15).toNat = (s.reg x).toNat / 128

/-- R152: CXNN puts the step's draw masked by nn into V[x]; every bit that is 0 in nn is 0. The draw is the free value
of R153 (log 4): it is any byte. -/
def Obligations.RandomIsTheMaskedDraw : Prop :=
  ∀ (s : State) (x : RegIdx) (nn : Byte), ∃ t, exec (.rndVxNn x nn) s = .next t ∧
    (∀ k < 8, (t.reg x).getLsbD k = (s.draw.getLsbD k && nn.getLsbD k)) ∧ Frame [x] [] s t

/-! ### Index register and memory (43_index_memory.md) -/

/-- R161: ANNN. -/
def Obligations.LoadIndex : Prop :=
  ∀ (s : State) (nnn : Word), ∃ t, exec (.ldINnn nnn) s = .next t ∧ t.i = nnn ∧ Frame [] [.index] s t

/-- R162: FX1E, for every I: a sum above 0xFFF wraps modulo 0x1000 and sets VF to 1, otherwise VF is 0. -/
def Obligations.AddToIndexWraps : Prop :=
  ∀ (s : State) (x : RegIdx), ∃ t, exec (.addIVx x) s = .next t ∧ Frame [15] [.index] s t ∧
    if s.i.toNat + (s.reg x).toNat > 0xFFF
    then t.i.toNat = (s.i.toNat + (s.reg x).toNat) % 0x1000 ∧ (t.reg 15).toNat = 1
    else t.i.toNat = s.i.toNat + (s.reg x).toNat ∧ (t.reg 15).toNat = 0

/-- R163: FX29 multiplies the whole byte. Where the address does not fit 16 bits, which default parameters never
reach, the spec states no value and I is a free value (log 9); the instruction still completes. -/
def Obligations.GlyphAddress : Prop :=
  ∀ (s : State) (x : RegIdx), ∃ t, exec (.ldFVx x) s = .next t ∧ Frame [] [.index] s t ∧
    (s.cfg.fontBase + (s.reg x).toNat * 5 < 65536 → t.i.toNat = s.cfg.fontBase + (s.reg x).toNat * 5)

/-- R164: FX33 in bounds writes the three decimal digits, hundreds first, and no other byte; out of bounds it raises
OutOfBounds(I, 3) and writes nothing. -/
def Obligations.DecimalDigits : Prop :=
  ∀ (s : State) (x : RegIdx), ∃ t, exec (.ldBVx x) s = .next t ∧
    if s.i.toNat + 3 ≤ s.cfg.memSize
    then (t.byteAt s.i.toNat).toNat = (s.reg x).toNat / 100 ∧
      (t.byteAt (s.i.toNat + 1)).toNat = (s.reg x).toNat / 10 % 10 ∧
      (t.byteAt (s.i.toNat + 2)).toNat = (s.reg x).toNat % 10 ∧
      (∀ a, a < s.i.toNat ∨ s.i.toNat + 3 ≤ a → t.byteAt a = s.byteAt a) ∧ Frame [] [.memory] s t
    else t.fault = some (.outOfBounds s.i.toNat 3) ∧ Frame [] [.fault] s t

/-- R165: FX55 in bounds writes V[0] to V[x] at I to I + x, and no other byte; out of bounds it raises
OutOfBounds(I, x + 1) and writes nothing. -/
def Obligations.BlockStore : Prop :=
  ∀ (s : State) (x : RegIdx), ∃ t, exec (.ldMemVx x) s = .next t ∧
    if s.i.toNat + x.val + 1 ≤ s.cfg.memSize
    then (∀ k : RegIdx, k ≤ x → t.byteAt (s.i.toNat + k.val) = s.reg k) ∧
      (∀ a, a < s.i.toNat ∨ s.i.toNat + x.val + 1 ≤ a → t.byteAt a = s.byteAt a) ∧ Frame [] [.memory] s t
    else t.fault = some (.outOfBounds s.i.toNat (x.val + 1)) ∧ Frame [] [.fault] s t

/-- R166: FX65 in bounds loads V[0] to V[x] from I to I + x, other registers keep their values; out of bounds it raises
OutOfBounds(I, x + 1) and changes no register. -/
def Obligations.BlockLoad : Prop :=
  ∀ (s : State) (x : RegIdx), ∃ t, exec (.ldVxMem x) s = .next t ∧
    if s.i.toNat + x.val + 1 ≤ s.cfg.memSize
    then (∀ k : RegIdx, t.reg k = if k ≤ x then s.byteAt (s.i.toNat + k.val) else s.reg k) ∧
      Frame (destinations (.ldVxMem x)) [] s t
    else t.fault = some (.outOfBounds s.i.toNat (x.val + 1)) ∧ Frame [] [.fault] s t

/-! ### Framebuffer (44_display.md) -/

/-- R181: 00E0 clears every pixel and signals DisplayChanged; VF is not written. -/
def Obligations.ClearScreen : Prop :=
  ∀ (s : State), ∃ t, exec .cls s = .next t ∧ (∀ p, t.pixel p = false) ∧
    t.events = s.events ++ [.displayChanged] ∧ Frame [] [.screen, .events] s t

/-- R182, R183: DXYN in bounds inverts exactly the pixels its 1 bits cover, VF is 1 exactly when one of them was set,
DisplayChanged is signalled once, and nothing else changes; n = 0 draws nothing and gives VF = 0 (D15). -/
def Obligations.DrawInvertsTheCoveredPixels : Prop :=
  ∀ (s : State) (x y : RegIdx) (n : Nat), s.cfg.Valid → (Instr.drw x y n).wellFormed = true →
    n = 0 ∨ s.i.toNat + n ≤ s.cfg.memSize →
    ∃ t, exec (.drw x y n) s = .next t ∧
      (∀ p, SpriteCovers s.cfg (s.reg x).toNat (s.reg y).toNat (s.spriteBytes n) p → t.pixel p = !s.pixel p) ∧
      (∀ p, ¬ SpriteCovers s.cfg (s.reg x).toNat (s.reg y).toNat (s.spriteBytes n) p → t.pixel p = s.pixel p) ∧
      ((t.reg 15).toNat = 1 ∨ (t.reg 15).toNat = 0) ∧
      ((t.reg 15).toNat = 1 ↔
        ∃ p, SpriteCovers s.cfg (s.reg x).toNat (s.reg y).toNat (s.spriteBytes n) p ∧ s.pixel p = true) ∧
      t.events = s.events ++ [.displayChanged] ∧ Frame [15] [.screen, .events] s t

/-- R183, R60: DXYN whose sprite would run past the end of Memory raises OutOfBounds(I, n): no pixel changes, VF is not
written, no event is signalled. -/
def Obligations.DrawPastMemoryFaults : Prop :=
  ∀ (s : State) (x y : RegIdx) (n : Nat), 1 ≤ n → s.cfg.memSize < s.i.toNat + n →
    ∃ t, exec (.drw x y n) s = .next t ∧ t.fault = some (.outOfBounds s.i.toNat n) ∧ Frame [] [.fault] s t

/-- R185: drawing the same sprite twice at the same coordinates (x, y ≠ 15) restores the framebuffer, and the second
draw reports a collision exactly when a 1 bit of the sprite covers a pixel that was unset before the first. The state
between may differ in pc, timers, inputs and events only, as it does after the next fetch. -/
def Obligations.DrawingTwiceRestores : Prop :=
  ∀ (s t t' : State) (x y : RegIdx) (n : Nat), s.cfg.Valid → (Instr.drw x y n).wellFormed = true →
    n = 0 ∨ s.i.toNat + n ≤ s.cfg.memSize → x ≠ 15 → y ≠ 15 →
    exec (.drw x y n) s = .next t → Frame [] [.pc, .delay, .sound, .host, .events] t t' → t'.cfg = t.cfg →
    ∃ u, exec (.drw x y n) t' = .next u ∧ (∀ p, u.pixel p = s.pixel p) ∧
      ((u.reg 15).toNat = 1 ↔
        ∃ p, SpriteCovers s.cfg (s.reg x).toNat (s.reg y).toNat (s.spriteBytes n) p ∧ s.pixel p = false)

/-! ### Keypad and timers (45_keypad_timers.md) -/

/-- R201, R202: EX9E skips exactly when key V[x] is down in this step's sample and EXA1 exactly when not; a number above
15 answers KEY_OOR and is not reduced (R200). -/
def Obligations.KeySkips : Prop :=
  ∀ (s : State) (x : RegIdx) (down : Bool),
    down = (if (s.reg x).toNat ≤ 15 then s.keys.getLsbD (s.reg x).toNat else s.cfg.keyOor) →
    (∃ t, exec (.skpVx x) s = .next t ∧
      t.pc.toNat = (if down then (s.pc.toNat + 2) % 65536 else s.pc.toNat) ∧ Frame [] [.pc] s t) ∧
    (∃ t, exec (.sknpVx x) s = .next t ∧
      t.pc.toNat = (if down then s.pc.toNat else (s.pc.toNat + 2) % 65536) ∧ Frame [] [.pc] s t)

/-- R203: FX0A sets the latch and its target register and nothing else, whatever keys are down. -/
def Obligations.WaitForKeySetsTheLatch : Prop :=
  ∀ (s : State) (x : RegIdx), ∃ t, exec (.ldVxK x) s = .next t ∧ t.waitActive = true ∧ t.waitReg = x ∧
    Frame [] [.latch] s t

/-- R204, R205, R206: FX07 reads DT; FX15 and FX18 write DT and ST. -/
def Obligations.TimerMoves : Prop :=
  ∀ (s : State) (x : RegIdx),
    (∃ t, exec (.ldVxDt x) s = .next t ∧ t.reg x = s.dt ∧ Frame [x] [] s t) ∧
    (∃ t, exec (.ldDtVx x) s = .next t ∧ t.dt = s.reg x ∧ Frame [] [.delay] s t) ∧
    (∃ t, exec (.ldStVx x) s = .next t ∧ t.st = s.reg x ∧ Frame [] [.sound] s t)

/-! ### Rules about every instruction -/

/-- R225, R226: an instruction that raises a fault makes none of its writes and signals nothing: the record is all that
changes. -/
def Obligations.FaultingInstructionWritesNothing : Prop :=
  ∀ (i : Instr) (s t : State), s.fault = none → exec i s = .next t → t.fault ≠ none → Frame [] [.fault] s t

/-- Q1: whatever the instruction, pc ends at fa + 2, fa + 4, its address field, nnn + V[0], or the popped address. -/
def Obligations.WherePcCanGo : Prop :=
  ∀ (i : Instr) (s t : State), exec i s = .next t →
    t.pc = s.pc ∨ t.pc = s.pc + 2 ∨ (∃ nnn, (i = .jp nnn ∨ i = .call nnn) ∧ t.pc = nnn) ∨
    (∃ nnn, i = .jpV0 nnn ∧ t.pc = nnn + (s.reg 0).setWidth 16) ∨
    (i = .ret ∧ t.pc = be16 (s.stkRead (s.sp - 2)) (s.stkRead (s.sp - 2 + 1)))

/-- R22, Q2: a register changes only if the instruction names it as destination, or it is VF and the instruction is one
of the seven flag writers. -/
def Obligations.WhoWritesRegisters : Prop :=
  ∀ (i : Instr) (s t : State) (r : RegIdx), exec i s = .next t → t.reg r ≠ s.reg r →
    r ∈ destinations i ∨ (r = 15 ∧ writesFlag i = true)

/-- Q3: after a flag writer that raised no fault VF is 0 or 1, except 8FYE, which leaves 0 or 2. -/
def Obligations.FlagIsZeroOrOne : Prop :=
  ∀ (i : Instr) (s t : State), writesFlag i = true → s.fault = none → exec i s = .next t → t.fault = none →
    (∃ y, i = .shlVx 15 y) ∧ ((t.reg 15).toNat = 0 ∨ (t.reg 15).toNat = 2) ∨
    (∀ y, i ≠ .shlVx 15 y) ∧ ((t.reg 15).toNat = 0 ∨ (t.reg 15).toNat = 1)

/-- Q10, R38: only FX33 and FX55 write Memory, only 00E0 and DXYN the framebuffer, only 2NNN and 00EE sp, only 2NNN
STK. -/
def Obligations.WhoWritesMemoryScreenAndStack : Prop :=
  ∀ (i : Instr) (s t : State), exec i s = .next t →
    ((∃ a, t.byteAt a ≠ s.byteAt a) → ∃ x, i = .ldBVx x ∨ i = .ldMemVx x) ∧
    ((∃ p, t.pixel p ≠ s.pixel p) → i = .cls ∨ ∃ x y n, i = .drw x y n) ∧
    (t.sp ≠ s.sp → i = .ret ∨ ∃ nnn, i = .call nnn) ∧
    ((∃ o, t.stkRead o ≠ s.stkRead o) → ∃ nnn, i = .call nnn)

/-- R109: "transition to `AwaitingKey` occurs only via the "wait for keypress" instruction": a step enters AwaitingKey
only by running FX0A, and the register recorded is its x. -/
def Obligations.OnlyWaitForKeyEntersAwaitingKey : Prop :=
  ∀ (s t : State), s.waitActive = false → step s = .next t → t.waitActive = true →
    decode [s.byteAt s.pc.toNat, s.byteAt (s.pc.toNat + 1)] = .ok (.ldVxK t.waitReg, [])

/-- R38: an instruction other than EX9E, EXA1 and CXNN does the same whatever the keys and the random byte: two runs
that differ in the host's answers only end in states that differ in them only. -/
def Obligations.HostAnswersDoNotLeak : Prop :=
  ∀ (i : Instr) (s t : State) (keys : BitVec 16) (draw : Byte), readsHost i = false → exec i s = .next t →
    exec i { s with keys := keys, draw := draw } = .next { t with keys := keys, draw := draw }

/-! ### Invariants of every step (10_state.md R36) -/

/-- Every step keeps the parameters as they are, Memory and the framebuffer in their canonical form, and every listed
byte and pixel inside the store and the grid. -/
def Obligations.CanonicalFormsAreKept : Prop :=
  ∀ (s t : State), s.Canonical → step s = .next t → t.Canonical ∧ t.cfg = s.cfg

/-- R36(b), R36(c): every step keeps sp even and inside its range, STK its size, and I inside its bound. -/
def Obligations.StackAndIndexBoundsAreKept : Prop :=
  ∀ (s t : State), s.StackShape → s.IndexBound → step s = .next t → t.StackShape ∧ t.IndexBound

/-- R36(d): every step keeps pc at most max(0x10FE, MEM_SIZE + 2) and every return address held at most MEM_SIZE. -/
def Obligations.PcBoundIsKept : Prop :=
  ∀ (s t : State), s.StackShape → s.PcBound → step s = .next t → t.PcBound
end

