-- ==== Sys2Proof/Laws/Alu.lean ====
section
/-! SUPPORT. What the flag and result computations say as numbers (42_load_alu.md R154, 43_index_memory.md R162 to
R164): one lemma per function. -/

namespace Sys2Proof.Machine

theorem flagByte_toNat (b : Bool) : (flagByte b).toNat = if b = true then 1 else 0 := by cases b <;> rfl

theorem flagByte_decide (p : Prop) [Decidable p] : (flagByte (decide p)).toNat = if p then 1 else 0 := by
  by_cases h : p <;> simp [h, flagByte_toNat]

/-- R147, R154(a): the sum modulo 256. -/
theorem addByte_toNat (a b : Byte) : (addByte a b).toNat = (a.toNat + b.toNat) % 256 := by simp [addByte, sum]

/-- R147: the carry is 1 exactly when the true sum is above 255. -/
theorem carry_toNat (a b : Byte) : (carry a b).toNat = if 255 < a.toNat + b.toNat then 1 else 0 :=
  flagByte_decide _

/-- R148, R154(b): the difference modulo 256. -/
theorem subByte_toNat (a b : Byte) : ((subByte a b).toNat : Int) = ((a.toNat : Int) - b.toNat) % 256 := by
  simp only [subByte, diff, BitVec.toNat_ofInt]; omega

/-- R148: the flag is 1 exactly when there is no borrow. -/
theorem notBorrow_toNat (a b : Byte) : (notBorrow a b).toNat = if a.toNat < b.toNat then 0 else 1 := by
  rw [notBorrow, flagByte_decide, diff]; split <;> split <;> omega

/-- R149: half of the byte, rounded down. -/
theorem shrByte_toNat (a : Byte) : (shrByte a).toNat = a.toNat / 2 := by
  simp [shrByte, Nat.shiftRight_eq_div_pow]

/-- R149: the bit shifted out is bit 0. -/
theorem shrOut_toNat (a : Byte) : (shrOut a).toNat = a.toNat % 2 := by
  simp [shrOut]

/-- R151: twice the byte modulo 256. -/
theorem shlByte_toNat (a : Byte) : (shlByte a).toNat = a.toNat * 2 % 256 := by
  simp [shlByte, Nat.shiftLeft_eq]

/-- R151: the bit shifted out is bit 7. -/
theorem shlOut_toNat (a : Byte) : (shlOut a).toNat = a.toNat / 128 := by
  revert a; decide

/-- R162: the sum, wrapped modulo 0x1000 when it passes 0xFFF. -/
theorem indexAdd_toNat (i : Word) (a : Byte) : (indexAdd i a).toNat =
    if 0xFFF < i.toNat + a.toNat then (i.toNat + a.toNat) % 0x1000 else i.toNat + a.toNat := by
  show BitVec.toNat (if 0xFFF < i.toNat + a.toNat then BitVec.ofNat 16 ((i.toNat + a.toNat) % 0x1000)
    else BitVec.ofNat 16 (i.toNat + a.toNat)) = _
  split
  · rw [BitVec.toNat_ofNat]; omega
  · rw [BitVec.toNat_ofNat]; omega

/-- R162: the flag is 1 exactly when the sum passed 0xFFF. -/
theorem indexOverflow_toNat (i : Word) (a : Byte) :
    (indexOverflow i a).toNat = if 0xFFF < i.toNat + a.toNat then 1 else 0 :=
  flagByte_decide _

/-- R163: the glyph's address, where it fits 16 bits. -/
theorem glyphIndex_toNat (c : Config) (a : Byte) (h : c.fontBase + a.toNat * 5 < 65536) :
    (glyphIndex c a).toNat = c.fontBase + a.toNat * 5 := by
  have h' : glyphAddr c a < 65536 := h
  rw [glyphIndex, if_pos h', BitVec.toNat_ofNat]
  exact Nat.mod_eq_of_lt h

@[simp] theorem bcdDigits_length (a : Byte) : (bcdDigits a).length = 3 := rfl

/-- R164: hundreds, tens, ones. -/
theorem bcdDigits_toNat (a : Byte) :
    ((bcdDigits a).getD 0 0).toNat = a.toNat / 100 ∧ ((bcdDigits a).getD 1 0).toNat = a.toNat / 10 % 10 ∧
      ((bcdDigits a).getD 2 0).toNat = a.toNat % 10 := by
  simp [bcdDigits]; omega

/-- R124: the sum is not reduced; it fits 16 bits for a 12-bit address. -/
theorem offsetTarget_toNat (nnn : Word) (a : Byte) (h : nnn.toNat ≤ 0xFFF) :
    (offsetTarget nnn a).toNat = nnn.toNat + a.toNat := by
  rw [offsetTarget, BitVec.toNat_ofNat]; omega

end Sys2Proof.Machine
end

