-- ==== Sys2Proof/Laws/Decode.lean ====
section
/-! SUPPORT. Bytes, words and fields as numbers (20_memory.md R56, 30_encoding.md R82). -/

namespace Sys2Proof

theorem be16_toNat (hi lo : Byte) : (be16 hi lo).toNat = hi.toNat * 256 + lo.toNat := by
  have := hi.isLt; have := lo.isLt
  rw [be16, BitVec.toNat_ofNat]; omega

theorem hiByte_toNat (w : Word) : (hiByte w).toNat = w.toNat / 256 := by
  have := w.isLt
  rw [hiByte, BitVec.extractLsb'_toNat, Nat.shiftRight_eq_div_pow]; omega

theorem loByte_toNat (w : Word) : (loByte w).toNat = w.toNat % 256 := by
  rw [loByte, BitVec.extractLsb'_toNat, Nat.shiftRight_eq_div_pow]; omega

/-- The two bytes of a word make the word again. -/
@[simp] theorem be16_hiByte_loByte (w : Word) : be16 (hiByte w) (loByte w) = w := by
  apply BitVec.eq_of_toNat_eq
  rw [be16_toNat, hiByte_toNat, loByte_toNat]; omega

theorem fieldOp_toNat (w : Word) : (fieldOp w).toNat = w.toNat / 4096 := by
  have := w.isLt
  rw [fieldOp, BitVec.extractLsb'_toNat, Nat.shiftRight_eq_div_pow]; omega

theorem fieldX_val (w : Word) : (fieldX w).val = w.toNat / 256 % 16 := by
  show (w.extractLsb' 8 4).toNat = _
  rw [BitVec.extractLsb'_toNat, Nat.shiftRight_eq_div_pow]

theorem fieldY_val (w : Word) : (fieldY w).val = w.toNat / 16 % 16 := by
  show (w.extractLsb' 4 4).toNat = _
  rw [BitVec.extractLsb'_toNat, Nat.shiftRight_eq_div_pow]

theorem fieldN_toNat (w : Word) : (fieldN w).toNat = w.toNat % 16 := by
  rw [fieldN, BitVec.extractLsb'_toNat, Nat.shiftRight_eq_div_pow]; omega

theorem fieldNn_toNat (w : Word) : (fieldNn w).toNat = w.toNat % 256 := by
  rw [fieldNn, BitVec.extractLsb'_toNat, Nat.shiftRight_eq_div_pow]; omega

theorem fieldNnn_toNat (w : Word) : (fieldNnn w).toNat = w.toNat % 4096 := by
  rw [fieldNnn, BitVec.toNat_setWidth, BitVec.extractLsb'_toNat, Nat.shiftRight_eq_div_pow]; omega

theorem packNnn_toNat (op : Nat) (nnn : Word) (h : op < 16) :
    (packNnn op nnn).toNat = op * 4096 + nnn.toNat % 4096 := by
  rw [packNnn, BitVec.toNat_ofNat]; omega

theorem packXNn_toNat (op : Nat) (x : RegIdx) (nn : Byte) (h : op < 16) :
    (packXNn op x nn).toNat = op * 4096 + x.val * 256 + nn.toNat := by
  have := x.isLt; have := nn.isLt
  rw [packXNn, BitVec.toNat_ofNat]; omega

theorem packXYN_toNat (op : Nat) (x y : RegIdx) (n : Nat) (h : op < 16) :
    (packXYN op x y n).toNat = op * 4096 + x.val * 256 + y.val * 16 + n % 16 := by
  have := x.isLt; have := y.isLt
  rw [packXYN, BitVec.toNat_ofNat]; omega

/-- The byte decoder on two bytes is the word decoder. -/
theorem decode_ok_iff (hi lo : Byte) (i : Instr) :
    decode [hi, lo] = .ok (i, []) ↔ decodeWord (be16 hi lo) = some i := by
  simp only [decode]
  split <;> simp_all

/-! ### The masks of R86, byte by byte -/

theorem be16_eq_append (hi lo : Byte) : be16 hi lo = (hi ++ lo : BitVec (8 + 8)) := by
  apply BitVec.eq_of_toNat_eq
  have h : (hi ++ lo : BitVec (8 + 8)).toNat = hi.toNat <<< 8 ||| lo.toNat := BitVec.toNat_append hi lo
  rw [be16_toNat]
  refine Eq.trans ?_ h.symm
  rw [← Nat.shiftLeft_add_eq_or_of_lt lo.isLt, Nat.shiftLeft_eq]

theorem be16_and (a b c d : Byte) : be16 a b &&& be16 c d = be16 (a &&& c) (b &&& d) := by
  simp only [be16_eq_append]
  exact BitVec.and_append

theorem be16_inj {a b c d : Byte} : be16 a b = be16 c d ↔ a = c ∧ b = d := by
  refine ⟨fun h => ?_, fun h => by rw [h.1, h.2]⟩
  have h := congrArg BitVec.toNat h
  rw [be16_toNat, be16_toNat] at h
  have := b.isLt; have := d.isLt
  exact ⟨BitVec.eq_of_toNat_eq (by omega), BitVec.eq_of_toNat_eq (by omega)⟩

/-- A row fits a word exactly when its mask and match fit the word's two bytes, each on its own. -/
theorem OpcodeRow.fits_iff (r : OpcodeRow) (w : Word) : r.fits w = true ↔
    hiByte w &&& hiByte r.mask = hiByte r.bits ∧ loByte w &&& loByte r.mask = loByte r.bits := by
  rw [← be16_inj, ← be16_and]
  simp [OpcodeRow.fits]

end Sys2Proof
end

