-- ==== Sys2Proof/Laws/State.lean ====
section
/-! SUPPORT. What each named update of the state does to each field: one lemma per field per update, so that no later
proof unfolds a record update. -/

namespace Sys2Proof.Machine

variable (s : State)

/-! ### setReg -/

@[simp] theorem State.setReg_cfg (x : RegIdx) (b : Byte) : (s.setReg x b).cfg = s.cfg := rfl
@[simp] theorem State.setReg_v (x : RegIdx) (b : Byte) : (s.setReg x b).v = s.v.set x b := rfl
@[simp] theorem State.setReg_pc (x : RegIdx) (b : Byte) : (s.setReg x b).pc = s.pc := rfl
@[simp] theorem State.setReg_i (x : RegIdx) (b : Byte) : (s.setReg x b).i = s.i := rfl
@[simp] theorem State.setReg_sp (x : RegIdx) (b : Byte) : (s.setReg x b).sp = s.sp := rfl
@[simp] theorem State.setReg_stk (x : RegIdx) (b : Byte) : (s.setReg x b).stk = s.stk := rfl
@[simp] theorem State.setReg_dt (x : RegIdx) (b : Byte) : (s.setReg x b).dt = s.dt := rfl
@[simp] theorem State.setReg_st (x : RegIdx) (b : Byte) : (s.setReg x b).st = s.st := rfl
@[simp] theorem State.setReg_waitActive (x : RegIdx) (b : Byte) : (s.setReg x b).waitActive = s.waitActive := rfl
@[simp] theorem State.setReg_waitReg (x : RegIdx) (b : Byte) : (s.setReg x b).waitReg = s.waitReg := rfl
@[simp] theorem State.setReg_fault (x : RegIdx) (b : Byte) : (s.setReg x b).fault = s.fault := rfl
@[simp] theorem State.setReg_mem (x : RegIdx) (b : Byte) : (s.setReg x b).mem = s.mem := rfl
@[simp] theorem State.setReg_fb (x : RegIdx) (b : Byte) : (s.setReg x b).fb = s.fb := rfl
@[simp] theorem State.setReg_keys (x : RegIdx) (b : Byte) : (s.setReg x b).keys = s.keys := rfl
@[simp] theorem State.setReg_draw (x : RegIdx) (b : Byte) : (s.setReg x b).draw = s.draw := rfl
@[simp] theorem State.setReg_script (x : RegIdx) (b : Byte) : (s.setReg x b).script = s.script := rfl
@[simp] theorem State.setReg_samples (x : RegIdx) (b : Byte) : (s.setReg x b).samples = s.samples := rfl
@[simp] theorem State.setReg_events (x : RegIdx) (b : Byte) : (s.setReg x b).events = s.events := rfl

/-! ### setPc -/

@[simp] theorem State.setPc_cfg (w : Word) : (s.setPc w).cfg = s.cfg := rfl
@[simp] theorem State.setPc_v (w : Word) : (s.setPc w).v = s.v := rfl
@[simp] theorem State.setPc_pc (w : Word) : (s.setPc w).pc = w := rfl
@[simp] theorem State.setPc_i (w : Word) : (s.setPc w).i = s.i := rfl
@[simp] theorem State.setPc_sp (w : Word) : (s.setPc w).sp = s.sp := rfl
@[simp] theorem State.setPc_stk (w : Word) : (s.setPc w).stk = s.stk := rfl
@[simp] theorem State.setPc_dt (w : Word) : (s.setPc w).dt = s.dt := rfl
@[simp] theorem State.setPc_st (w : Word) : (s.setPc w).st = s.st := rfl
@[simp] theorem State.setPc_waitActive (w : Word) : (s.setPc w).waitActive = s.waitActive := rfl
@[simp] theorem State.setPc_waitReg (w : Word) : (s.setPc w).waitReg = s.waitReg := rfl
@[simp] theorem State.setPc_fault (w : Word) : (s.setPc w).fault = s.fault := rfl
@[simp] theorem State.setPc_mem (w : Word) : (s.setPc w).mem = s.mem := rfl
@[simp] theorem State.setPc_fb (w : Word) : (s.setPc w).fb = s.fb := rfl
@[simp] theorem State.setPc_keys (w : Word) : (s.setPc w).keys = s.keys := rfl
@[simp] theorem State.setPc_draw (w : Word) : (s.setPc w).draw = s.draw := rfl
@[simp] theorem State.setPc_script (w : Word) : (s.setPc w).script = s.script := rfl
@[simp] theorem State.setPc_samples (w : Word) : (s.setPc w).samples = s.samples := rfl
@[simp] theorem State.setPc_events (w : Word) : (s.setPc w).events = s.events := rfl

/-! ### advance -/

@[simp] theorem State.advance_cfg : s.advance.cfg = s.cfg := rfl
@[simp] theorem State.advance_v : s.advance.v = s.v := rfl
@[simp] theorem State.advance_pc : s.advance.pc = s.pc + 2 := rfl
@[simp] theorem State.advance_i : s.advance.i = s.i := rfl
@[simp] theorem State.advance_sp : s.advance.sp = s.sp := rfl
@[simp] theorem State.advance_stk : s.advance.stk = s.stk := rfl
@[simp] theorem State.advance_dt : s.advance.dt = s.dt := rfl
@[simp] theorem State.advance_st : s.advance.st = s.st := rfl
@[simp] theorem State.advance_waitActive : s.advance.waitActive = s.waitActive := rfl
@[simp] theorem State.advance_waitReg : s.advance.waitReg = s.waitReg := rfl
@[simp] theorem State.advance_fault : s.advance.fault = s.fault := rfl
@[simp] theorem State.advance_mem : s.advance.mem = s.mem := rfl
@[simp] theorem State.advance_fb : s.advance.fb = s.fb := rfl
@[simp] theorem State.advance_keys : s.advance.keys = s.keys := rfl
@[simp] theorem State.advance_draw : s.advance.draw = s.draw := rfl
@[simp] theorem State.advance_script : s.advance.script = s.script := rfl
@[simp] theorem State.advance_samples : s.advance.samples = s.samples := rfl
@[simp] theorem State.advance_events : s.advance.events = s.events := rfl

/-! ### setI -/

@[simp] theorem State.setI_cfg (w : Word) : (s.setI w).cfg = s.cfg := rfl
@[simp] theorem State.setI_v (w : Word) : (s.setI w).v = s.v := rfl
@[simp] theorem State.setI_pc (w : Word) : (s.setI w).pc = s.pc := rfl
@[simp] theorem State.setI_i (w : Word) : (s.setI w).i = w := rfl
@[simp] theorem State.setI_sp (w : Word) : (s.setI w).sp = s.sp := rfl
@[simp] theorem State.setI_stk (w : Word) : (s.setI w).stk = s.stk := rfl
@[simp] theorem State.setI_dt (w : Word) : (s.setI w).dt = s.dt := rfl
@[simp] theorem State.setI_st (w : Word) : (s.setI w).st = s.st := rfl
@[simp] theorem State.setI_waitActive (w : Word) : (s.setI w).waitActive = s.waitActive := rfl
@[simp] theorem State.setI_waitReg (w : Word) : (s.setI w).waitReg = s.waitReg := rfl
@[simp] theorem State.setI_fault (w : Word) : (s.setI w).fault = s.fault := rfl
@[simp] theorem State.setI_mem (w : Word) : (s.setI w).mem = s.mem := rfl
@[simp] theorem State.setI_fb (w : Word) : (s.setI w).fb = s.fb := rfl
@[simp] theorem State.setI_keys (w : Word) : (s.setI w).keys = s.keys := rfl
@[simp] theorem State.setI_draw (w : Word) : (s.setI w).draw = s.draw := rfl
@[simp] theorem State.setI_script (w : Word) : (s.setI w).script = s.script := rfl
@[simp] theorem State.setI_samples (w : Word) : (s.setI w).samples = s.samples := rfl
@[simp] theorem State.setI_events (w : Word) : (s.setI w).events = s.events := rfl

/-! ### setDt -/

@[simp] theorem State.setDt_cfg (b : Byte) : (s.setDt b).cfg = s.cfg := rfl
@[simp] theorem State.setDt_v (b : Byte) : (s.setDt b).v = s.v := rfl
@[simp] theorem State.setDt_pc (b : Byte) : (s.setDt b).pc = s.pc := rfl
@[simp] theorem State.setDt_i (b : Byte) : (s.setDt b).i = s.i := rfl
@[simp] theorem State.setDt_sp (b : Byte) : (s.setDt b).sp = s.sp := rfl
@[simp] theorem State.setDt_stk (b : Byte) : (s.setDt b).stk = s.stk := rfl
@[simp] theorem State.setDt_dt (b : Byte) : (s.setDt b).dt = b := rfl
@[simp] theorem State.setDt_st (b : Byte) : (s.setDt b).st = s.st := rfl
@[simp] theorem State.setDt_waitActive (b : Byte) : (s.setDt b).waitActive = s.waitActive := rfl
@[simp] theorem State.setDt_waitReg (b : Byte) : (s.setDt b).waitReg = s.waitReg := rfl
@[simp] theorem State.setDt_fault (b : Byte) : (s.setDt b).fault = s.fault := rfl
@[simp] theorem State.setDt_mem (b : Byte) : (s.setDt b).mem = s.mem := rfl
@[simp] theorem State.setDt_fb (b : Byte) : (s.setDt b).fb = s.fb := rfl
@[simp] theorem State.setDt_keys (b : Byte) : (s.setDt b).keys = s.keys := rfl
@[simp] theorem State.setDt_draw (b : Byte) : (s.setDt b).draw = s.draw := rfl
@[simp] theorem State.setDt_script (b : Byte) : (s.setDt b).script = s.script := rfl
@[simp] theorem State.setDt_samples (b : Byte) : (s.setDt b).samples = s.samples := rfl
@[simp] theorem State.setDt_events (b : Byte) : (s.setDt b).events = s.events := rfl

/-! ### setSt -/

@[simp] theorem State.setSt_cfg (b : Byte) : (s.setSt b).cfg = s.cfg := rfl
@[simp] theorem State.setSt_v (b : Byte) : (s.setSt b).v = s.v := rfl
@[simp] theorem State.setSt_pc (b : Byte) : (s.setSt b).pc = s.pc := rfl
@[simp] theorem State.setSt_i (b : Byte) : (s.setSt b).i = s.i := rfl
@[simp] theorem State.setSt_sp (b : Byte) : (s.setSt b).sp = s.sp := rfl
@[simp] theorem State.setSt_stk (b : Byte) : (s.setSt b).stk = s.stk := rfl
@[simp] theorem State.setSt_dt (b : Byte) : (s.setSt b).dt = s.dt := rfl
@[simp] theorem State.setSt_st (b : Byte) : (s.setSt b).st = b := rfl
@[simp] theorem State.setSt_waitActive (b : Byte) : (s.setSt b).waitActive = s.waitActive := rfl
@[simp] theorem State.setSt_waitReg (b : Byte) : (s.setSt b).waitReg = s.waitReg := rfl
@[simp] theorem State.setSt_fault (b : Byte) : (s.setSt b).fault = s.fault := rfl
@[simp] theorem State.setSt_mem (b : Byte) : (s.setSt b).mem = s.mem := rfl
@[simp] theorem State.setSt_fb (b : Byte) : (s.setSt b).fb = s.fb := rfl
@[simp] theorem State.setSt_keys (b : Byte) : (s.setSt b).keys = s.keys := rfl
@[simp] theorem State.setSt_draw (b : Byte) : (s.setSt b).draw = s.draw := rfl
@[simp] theorem State.setSt_script (b : Byte) : (s.setSt b).script = s.script := rfl
@[simp] theorem State.setSt_samples (b : Byte) : (s.setSt b).samples = s.samples := rfl
@[simp] theorem State.setSt_events (b : Byte) : (s.setSt b).events = s.events := rfl

/-! ### await -/

@[simp] theorem State.await_cfg (x : RegIdx) : (s.await x).cfg = s.cfg := rfl
@[simp] theorem State.await_v (x : RegIdx) : (s.await x).v = s.v := rfl
@[simp] theorem State.await_pc (x : RegIdx) : (s.await x).pc = s.pc := rfl
@[simp] theorem State.await_i (x : RegIdx) : (s.await x).i = s.i := rfl
@[simp] theorem State.await_sp (x : RegIdx) : (s.await x).sp = s.sp := rfl
@[simp] theorem State.await_stk (x : RegIdx) : (s.await x).stk = s.stk := rfl
@[simp] theorem State.await_dt (x : RegIdx) : (s.await x).dt = s.dt := rfl
@[simp] theorem State.await_st (x : RegIdx) : (s.await x).st = s.st := rfl
@[simp] theorem State.await_waitActive (x : RegIdx) : (s.await x).waitActive = true := rfl
@[simp] theorem State.await_waitReg (x : RegIdx) : (s.await x).waitReg = x := rfl
@[simp] theorem State.await_fault (x : RegIdx) : (s.await x).fault = s.fault := rfl
@[simp] theorem State.await_mem (x : RegIdx) : (s.await x).mem = s.mem := rfl
@[simp] theorem State.await_fb (x : RegIdx) : (s.await x).fb = s.fb := rfl
@[simp] theorem State.await_keys (x : RegIdx) : (s.await x).keys = s.keys := rfl
@[simp] theorem State.await_draw (x : RegIdx) : (s.await x).draw = s.draw := rfl
@[simp] theorem State.await_script (x : RegIdx) : (s.await x).script = s.script := rfl
@[simp] theorem State.await_samples (x : RegIdx) : (s.await x).samples = s.samples := rfl
@[simp] theorem State.await_events (x : RegIdx) : (s.await x).events = s.events := rfl

/-! ### wake -/

@[simp] theorem State.wake_cfg : s.wake.cfg = s.cfg := rfl
@[simp] theorem State.wake_v : s.wake.v = s.v := rfl
@[simp] theorem State.wake_pc : s.wake.pc = s.pc := rfl
@[simp] theorem State.wake_i : s.wake.i = s.i := rfl
@[simp] theorem State.wake_sp : s.wake.sp = s.sp := rfl
@[simp] theorem State.wake_stk : s.wake.stk = s.stk := rfl
@[simp] theorem State.wake_dt : s.wake.dt = s.dt := rfl
@[simp] theorem State.wake_st : s.wake.st = s.st := rfl
@[simp] theorem State.wake_waitActive : s.wake.waitActive = false := rfl
@[simp] theorem State.wake_waitReg : s.wake.waitReg = s.waitReg := rfl
@[simp] theorem State.wake_fault : s.wake.fault = s.fault := rfl
@[simp] theorem State.wake_mem : s.wake.mem = s.mem := rfl
@[simp] theorem State.wake_fb : s.wake.fb = s.fb := rfl
@[simp] theorem State.wake_keys : s.wake.keys = s.keys := rfl
@[simp] theorem State.wake_draw : s.wake.draw = s.draw := rfl
@[simp] theorem State.wake_script : s.wake.script = s.script := rfl
@[simp] theorem State.wake_samples : s.wake.samples = s.samples := rfl
@[simp] theorem State.wake_events : s.wake.events = s.events := rfl

/-! ### signal -/

@[simp] theorem State.signal_cfg (e : OutEvent) : (s.signal e).cfg = s.cfg := rfl
@[simp] theorem State.signal_v (e : OutEvent) : (s.signal e).v = s.v := rfl
@[simp] theorem State.signal_pc (e : OutEvent) : (s.signal e).pc = s.pc := rfl
@[simp] theorem State.signal_i (e : OutEvent) : (s.signal e).i = s.i := rfl
@[simp] theorem State.signal_sp (e : OutEvent) : (s.signal e).sp = s.sp := rfl
@[simp] theorem State.signal_stk (e : OutEvent) : (s.signal e).stk = s.stk := rfl
@[simp] theorem State.signal_dt (e : OutEvent) : (s.signal e).dt = s.dt := rfl
@[simp] theorem State.signal_st (e : OutEvent) : (s.signal e).st = s.st := rfl
@[simp] theorem State.signal_waitActive (e : OutEvent) : (s.signal e).waitActive = s.waitActive := rfl
@[simp] theorem State.signal_waitReg (e : OutEvent) : (s.signal e).waitReg = s.waitReg := rfl
@[simp] theorem State.signal_fault (e : OutEvent) : (s.signal e).fault = s.fault := rfl
@[simp] theorem State.signal_mem (e : OutEvent) : (s.signal e).mem = s.mem := rfl
@[simp] theorem State.signal_fb (e : OutEvent) : (s.signal e).fb = s.fb := rfl
@[simp] theorem State.signal_keys (e : OutEvent) : (s.signal e).keys = s.keys := rfl
@[simp] theorem State.signal_draw (e : OutEvent) : (s.signal e).draw = s.draw := rfl
@[simp] theorem State.signal_script (e : OutEvent) : (s.signal e).script = s.script := rfl
@[simp] theorem State.signal_samples (e : OutEvent) : (s.signal e).samples = s.samples := rfl
@[simp] theorem State.signal_events (e : OutEvent) : (s.signal e).events = s.events ++ [e] := rfl

/-! ### putBytes -/

@[simp] theorem State.putBytes_cfg (a : Nat) (bs : List Byte) : (s.putBytes a bs).cfg = s.cfg := rfl
@[simp] theorem State.putBytes_v (a : Nat) (bs : List Byte) : (s.putBytes a bs).v = s.v := rfl
@[simp] theorem State.putBytes_pc (a : Nat) (bs : List Byte) : (s.putBytes a bs).pc = s.pc := rfl
@[simp] theorem State.putBytes_i (a : Nat) (bs : List Byte) : (s.putBytes a bs).i = s.i := rfl
@[simp] theorem State.putBytes_sp (a : Nat) (bs : List Byte) : (s.putBytes a bs).sp = s.sp := rfl
@[simp] theorem State.putBytes_stk (a : Nat) (bs : List Byte) : (s.putBytes a bs).stk = s.stk := rfl
@[simp] theorem State.putBytes_dt (a : Nat) (bs : List Byte) : (s.putBytes a bs).dt = s.dt := rfl
@[simp] theorem State.putBytes_st (a : Nat) (bs : List Byte) : (s.putBytes a bs).st = s.st := rfl
@[simp] theorem State.putBytes_waitActive (a : Nat) (bs : List Byte) : (s.putBytes a bs).waitActive = s.waitActive := rfl
@[simp] theorem State.putBytes_waitReg (a : Nat) (bs : List Byte) : (s.putBytes a bs).waitReg = s.waitReg := rfl
@[simp] theorem State.putBytes_fault (a : Nat) (bs : List Byte) : (s.putBytes a bs).fault = s.fault := rfl
@[simp] theorem State.putBytes_mem (a : Nat) (bs : List Byte) : (s.putBytes a bs).mem = Memory.setRange s.cfg s.mem a bs := rfl
@[simp] theorem State.putBytes_fb (a : Nat) (bs : List Byte) : (s.putBytes a bs).fb = s.fb := rfl
@[simp] theorem State.putBytes_keys (a : Nat) (bs : List Byte) : (s.putBytes a bs).keys = s.keys := rfl
@[simp] theorem State.putBytes_draw (a : Nat) (bs : List Byte) : (s.putBytes a bs).draw = s.draw := rfl
@[simp] theorem State.putBytes_script (a : Nat) (bs : List Byte) : (s.putBytes a bs).script = s.script := rfl
@[simp] theorem State.putBytes_samples (a : Nat) (bs : List Byte) : (s.putBytes a bs).samples = s.samples := rfl
@[simp] theorem State.putBytes_events (a : Nat) (bs : List Byte) : (s.putBytes a bs).events = s.events := rfl

/-! ### raise -/

@[simp] theorem State.raise_cfg (f : FaultRecord) : (s.raise f).cfg = s.cfg := rfl
@[simp] theorem State.raise_v (f : FaultRecord) : (s.raise f).v = s.v := rfl
@[simp] theorem State.raise_pc (f : FaultRecord) : (s.raise f).pc = s.pc := rfl
@[simp] theorem State.raise_i (f : FaultRecord) : (s.raise f).i = s.i := rfl
@[simp] theorem State.raise_sp (f : FaultRecord) : (s.raise f).sp = s.sp := rfl
@[simp] theorem State.raise_stk (f : FaultRecord) : (s.raise f).stk = s.stk := rfl
@[simp] theorem State.raise_dt (f : FaultRecord) : (s.raise f).dt = s.dt := rfl
@[simp] theorem State.raise_st (f : FaultRecord) : (s.raise f).st = s.st := rfl
@[simp] theorem State.raise_waitActive (f : FaultRecord) : (s.raise f).waitActive = s.waitActive := rfl
@[simp] theorem State.raise_waitReg (f : FaultRecord) : (s.raise f).waitReg = s.waitReg := rfl
@[simp] theorem State.raise_fault (f : FaultRecord) : (s.raise f).fault = some f := rfl
@[simp] theorem State.raise_mem (f : FaultRecord) : (s.raise f).mem = s.mem := rfl
@[simp] theorem State.raise_fb (f : FaultRecord) : (s.raise f).fb = s.fb := rfl
@[simp] theorem State.raise_keys (f : FaultRecord) : (s.raise f).keys = s.keys := rfl
@[simp] theorem State.raise_draw (f : FaultRecord) : (s.raise f).draw = s.draw := rfl
@[simp] theorem State.raise_script (f : FaultRecord) : (s.raise f).script = s.script := rfl
@[simp] theorem State.raise_samples (f : FaultRecord) : (s.raise f).samples = s.samples := rfl
@[simp] theorem State.raise_events (f : FaultRecord) : (s.raise f).events = s.events ++ f.events := rfl

/-! ### stkWrite -/

@[simp] theorem State.stkWrite_cfg (o : Nat) (b : Byte) : (s.stkWrite o b).cfg = s.cfg := rfl
@[simp] theorem State.stkWrite_v (o : Nat) (b : Byte) : (s.stkWrite o b).v = s.v := rfl
@[simp] theorem State.stkWrite_pc (o : Nat) (b : Byte) : (s.stkWrite o b).pc = s.pc := rfl
@[simp] theorem State.stkWrite_i (o : Nat) (b : Byte) : (s.stkWrite o b).i = s.i := rfl
@[simp] theorem State.stkWrite_sp (o : Nat) (b : Byte) : (s.stkWrite o b).sp = s.sp := rfl
@[simp] theorem State.stkWrite_stk (o : Nat) (b : Byte) : (s.stkWrite o b).stk = s.stk.set o b := rfl
@[simp] theorem State.stkWrite_dt (o : Nat) (b : Byte) : (s.stkWrite o b).dt = s.dt := rfl
@[simp] theorem State.stkWrite_st (o : Nat) (b : Byte) : (s.stkWrite o b).st = s.st := rfl
@[simp] theorem State.stkWrite_waitActive (o : Nat) (b : Byte) : (s.stkWrite o b).waitActive = s.waitActive := rfl
@[simp] theorem State.stkWrite_waitReg (o : Nat) (b : Byte) : (s.stkWrite o b).waitReg = s.waitReg := rfl
@[simp] theorem State.stkWrite_fault (o : Nat) (b : Byte) : (s.stkWrite o b).fault = s.fault := rfl
@[simp] theorem State.stkWrite_mem (o : Nat) (b : Byte) : (s.stkWrite o b).mem = s.mem := rfl
@[simp] theorem State.stkWrite_fb (o : Nat) (b : Byte) : (s.stkWrite o b).fb = s.fb := rfl
@[simp] theorem State.stkWrite_keys (o : Nat) (b : Byte) : (s.stkWrite o b).keys = s.keys := rfl
@[simp] theorem State.stkWrite_draw (o : Nat) (b : Byte) : (s.stkWrite o b).draw = s.draw := rfl
@[simp] theorem State.stkWrite_script (o : Nat) (b : Byte) : (s.stkWrite o b).script = s.script := rfl
@[simp] theorem State.stkWrite_samples (o : Nat) (b : Byte) : (s.stkWrite o b).samples = s.samples := rfl
@[simp] theorem State.stkWrite_events (o : Nat) (b : Byte) : (s.stkWrite o b).events = s.events := rfl

/-! ### setSp -/

@[simp] theorem State.setSp_cfg (n : Nat) : (s.setSp n).cfg = s.cfg := rfl
@[simp] theorem State.setSp_v (n : Nat) : (s.setSp n).v = s.v := rfl
@[simp] theorem State.setSp_pc (n : Nat) : (s.setSp n).pc = s.pc := rfl
@[simp] theorem State.setSp_i (n : Nat) : (s.setSp n).i = s.i := rfl
@[simp] theorem State.setSp_sp (n : Nat) : (s.setSp n).sp = n := rfl
@[simp] theorem State.setSp_stk (n : Nat) : (s.setSp n).stk = s.stk := rfl
@[simp] theorem State.setSp_dt (n : Nat) : (s.setSp n).dt = s.dt := rfl
@[simp] theorem State.setSp_st (n : Nat) : (s.setSp n).st = s.st := rfl
@[simp] theorem State.setSp_waitActive (n : Nat) : (s.setSp n).waitActive = s.waitActive := rfl
@[simp] theorem State.setSp_waitReg (n : Nat) : (s.setSp n).waitReg = s.waitReg := rfl
@[simp] theorem State.setSp_fault (n : Nat) : (s.setSp n).fault = s.fault := rfl
@[simp] theorem State.setSp_mem (n : Nat) : (s.setSp n).mem = s.mem := rfl
@[simp] theorem State.setSp_fb (n : Nat) : (s.setSp n).fb = s.fb := rfl
@[simp] theorem State.setSp_keys (n : Nat) : (s.setSp n).keys = s.keys := rfl
@[simp] theorem State.setSp_draw (n : Nat) : (s.setSp n).draw = s.draw := rfl
@[simp] theorem State.setSp_script (n : Nat) : (s.setSp n).script = s.script := rfl
@[simp] theorem State.setSp_samples (n : Nat) : (s.setSp n).samples = s.samples := rfl
@[simp] theorem State.setSp_events (n : Nat) : (s.setSp n).events = s.events := rfl

/-! ### push -/

@[simp] theorem State.push_cfg (a : Word) : (s.push a).cfg = s.cfg := rfl
@[simp] theorem State.push_v (a : Word) : (s.push a).v = s.v := rfl
@[simp] theorem State.push_pc (a : Word) : (s.push a).pc = s.pc := rfl
@[simp] theorem State.push_i (a : Word) : (s.push a).i = s.i := rfl
@[simp] theorem State.push_sp (a : Word) : (s.push a).sp = s.sp + 2 := rfl
@[simp] theorem State.push_stk (a : Word) : (s.push a).stk = (s.stk.set s.sp (hiByte a)).set (s.sp + 1) (loByte a) := rfl
@[simp] theorem State.push_dt (a : Word) : (s.push a).dt = s.dt := rfl
@[simp] theorem State.push_st (a : Word) : (s.push a).st = s.st := rfl
@[simp] theorem State.push_waitActive (a : Word) : (s.push a).waitActive = s.waitActive := rfl
@[simp] theorem State.push_waitReg (a : Word) : (s.push a).waitReg = s.waitReg := rfl
@[simp] theorem State.push_fault (a : Word) : (s.push a).fault = s.fault := rfl
@[simp] theorem State.push_mem (a : Word) : (s.push a).mem = s.mem := rfl
@[simp] theorem State.push_fb (a : Word) : (s.push a).fb = s.fb := rfl
@[simp] theorem State.push_keys (a : Word) : (s.push a).keys = s.keys := rfl
@[simp] theorem State.push_draw (a : Word) : (s.push a).draw = s.draw := rfl
@[simp] theorem State.push_script (a : Word) : (s.push a).script = s.script := rfl
@[simp] theorem State.push_samples (a : Word) : (s.push a).samples = s.samples := rfl
@[simp] theorem State.push_events (a : Word) : (s.push a).events = s.events := rfl

/-! ### setFb -/

@[simp] theorem State.setFb_cfg (fb : List Pixel) : (s.setFb fb).cfg = s.cfg := rfl
@[simp] theorem State.setFb_v (fb : List Pixel) : (s.setFb fb).v = s.v := rfl
@[simp] theorem State.setFb_pc (fb : List Pixel) : (s.setFb fb).pc = s.pc := rfl
@[simp] theorem State.setFb_i (fb : List Pixel) : (s.setFb fb).i = s.i := rfl
@[simp] theorem State.setFb_sp (fb : List Pixel) : (s.setFb fb).sp = s.sp := rfl
@[simp] theorem State.setFb_stk (fb : List Pixel) : (s.setFb fb).stk = s.stk := rfl
@[simp] theorem State.setFb_dt (fb : List Pixel) : (s.setFb fb).dt = s.dt := rfl
@[simp] theorem State.setFb_st (fb : List Pixel) : (s.setFb fb).st = s.st := rfl
@[simp] theorem State.setFb_waitActive (fb : List Pixel) : (s.setFb fb).waitActive = s.waitActive := rfl
@[simp] theorem State.setFb_waitReg (fb : List Pixel) : (s.setFb fb).waitReg = s.waitReg := rfl
@[simp] theorem State.setFb_fault (fb : List Pixel) : (s.setFb fb).fault = s.fault := rfl
@[simp] theorem State.setFb_mem (fb : List Pixel) : (s.setFb fb).mem = s.mem := rfl
@[simp] theorem State.setFb_fb (fb : List Pixel) : (s.setFb fb).fb = fb := rfl
@[simp] theorem State.setFb_keys (fb : List Pixel) : (s.setFb fb).keys = s.keys := rfl
@[simp] theorem State.setFb_draw (fb : List Pixel) : (s.setFb fb).draw = s.draw := rfl
@[simp] theorem State.setFb_script (fb : List Pixel) : (s.setFb fb).script = s.script := rfl
@[simp] theorem State.setFb_samples (fb : List Pixel) : (s.setFb fb).samples = s.samples := rfl
@[simp] theorem State.setFb_events (fb : List Pixel) : (s.setFb fb).events = s.events := rfl

/-! ### ticks -/

@[simp] theorem State.ticks_cfg (n : Nat) : (s.ticks n).cfg = s.cfg := rfl
@[simp] theorem State.ticks_v (n : Nat) : (s.ticks n).v = s.v := rfl
@[simp] theorem State.ticks_pc (n : Nat) : (s.ticks n).pc = s.pc := rfl
@[simp] theorem State.ticks_i (n : Nat) : (s.ticks n).i = s.i := rfl
@[simp] theorem State.ticks_sp (n : Nat) : (s.ticks n).sp = s.sp := rfl
@[simp] theorem State.ticks_stk (n : Nat) : (s.ticks n).stk = s.stk := rfl
@[simp] theorem State.ticks_dt (n : Nat) : (s.ticks n).dt = countDown s.dt n := rfl
@[simp] theorem State.ticks_st (n : Nat) : (s.ticks n).st = countDown s.st n := rfl
@[simp] theorem State.ticks_waitActive (n : Nat) : (s.ticks n).waitActive = s.waitActive := rfl
@[simp] theorem State.ticks_waitReg (n : Nat) : (s.ticks n).waitReg = s.waitReg := rfl
@[simp] theorem State.ticks_fault (n : Nat) : (s.ticks n).fault = s.fault := rfl
@[simp] theorem State.ticks_mem (n : Nat) : (s.ticks n).mem = s.mem := rfl
@[simp] theorem State.ticks_fb (n : Nat) : (s.ticks n).fb = s.fb := rfl
@[simp] theorem State.ticks_keys (n : Nat) : (s.ticks n).keys = s.keys := rfl
@[simp] theorem State.ticks_draw (n : Nat) : (s.ticks n).draw = s.draw := rfl
@[simp] theorem State.ticks_script (n : Nat) : (s.ticks n).script = s.script := rfl
@[simp] theorem State.ticks_samples (n : Nat) : (s.ticks n).samples = s.samples := rfl
@[simp] theorem State.ticks_events (n : Nat) : (s.ticks n).events = s.events := rfl

/-! ### tick -/

@[simp] theorem State.tick_cfg : s.tick.cfg = s.cfg := rfl
@[simp] theorem State.tick_v : s.tick.v = s.v := rfl
@[simp] theorem State.tick_pc : s.tick.pc = s.pc := rfl
@[simp] theorem State.tick_i : s.tick.i = s.i := rfl
@[simp] theorem State.tick_sp : s.tick.sp = s.sp := rfl
@[simp] theorem State.tick_stk : s.tick.stk = s.stk := rfl
@[simp] theorem State.tick_dt : s.tick.dt = countDown s.dt 1 := rfl
@[simp] theorem State.tick_st : s.tick.st = countDown s.st 1 := rfl
@[simp] theorem State.tick_waitActive : s.tick.waitActive = s.waitActive := rfl
@[simp] theorem State.tick_waitReg : s.tick.waitReg = s.waitReg := rfl
@[simp] theorem State.tick_fault : s.tick.fault = s.fault := rfl
@[simp] theorem State.tick_mem : s.tick.mem = s.mem := rfl
@[simp] theorem State.tick_fb : s.tick.fb = s.fb := rfl
@[simp] theorem State.tick_keys : s.tick.keys = s.keys := rfl
@[simp] theorem State.tick_draw : s.tick.draw = s.draw := rfl
@[simp] theorem State.tick_script : s.tick.script = s.script := rfl
@[simp] theorem State.tick_samples : s.tick.samples = s.samples := rfl
@[simp] theorem State.tick_events : s.tick.events = s.events := rfl

/-! ### sample -/

@[simp] theorem State.sample_cfg (k : BitVec 16) (d : Byte) : (s.sample k d).cfg = s.cfg := rfl
@[simp] theorem State.sample_v (k : BitVec 16) (d : Byte) : (s.sample k d).v = s.v := rfl
@[simp] theorem State.sample_pc (k : BitVec 16) (d : Byte) : (s.sample k d).pc = s.pc := rfl
@[simp] theorem State.sample_i (k : BitVec 16) (d : Byte) : (s.sample k d).i = s.i := rfl
@[simp] theorem State.sample_sp (k : BitVec 16) (d : Byte) : (s.sample k d).sp = s.sp := rfl
@[simp] theorem State.sample_stk (k : BitVec 16) (d : Byte) : (s.sample k d).stk = s.stk := rfl
@[simp] theorem State.sample_dt (k : BitVec 16) (d : Byte) : (s.sample k d).dt = s.dt := rfl
@[simp] theorem State.sample_st (k : BitVec 16) (d : Byte) : (s.sample k d).st = s.st := rfl
@[simp] theorem State.sample_waitActive (k : BitVec 16) (d : Byte) : (s.sample k d).waitActive = s.waitActive := rfl
@[simp] theorem State.sample_waitReg (k : BitVec 16) (d : Byte) : (s.sample k d).waitReg = s.waitReg := rfl
@[simp] theorem State.sample_fault (k : BitVec 16) (d : Byte) : (s.sample k d).fault = s.fault := rfl
@[simp] theorem State.sample_mem (k : BitVec 16) (d : Byte) : (s.sample k d).mem = s.mem := rfl
@[simp] theorem State.sample_fb (k : BitVec 16) (d : Byte) : (s.sample k d).fb = s.fb := rfl
@[simp] theorem State.sample_keys (k : BitVec 16) (d : Byte) : (s.sample k d).keys = k := rfl
@[simp] theorem State.sample_draw (k : BitVec 16) (d : Byte) : (s.sample k d).draw = d := rfl
@[simp] theorem State.sample_script (k : BitVec 16) (d : Byte) : (s.sample k d).script = s.script := rfl
@[simp] theorem State.sample_samples (k : BitVec 16) (d : Byte) : (s.sample k d).samples = s.samples := rfl
@[simp] theorem State.sample_events (k : BitVec 16) (d : Byte) : (s.sample k d).events = [] := rfl

/-! ### hostMove -/

@[simp] theorem State.hostMove_cfg : s.hostMove.cfg = s.cfg := rfl
@[simp] theorem State.hostMove_v : s.hostMove.v = s.v := rfl
@[simp] theorem State.hostMove_pc : s.hostMove.pc = s.pc := rfl
@[simp] theorem State.hostMove_i : s.hostMove.i = s.i := rfl
@[simp] theorem State.hostMove_sp : s.hostMove.sp = s.sp := rfl
@[simp] theorem State.hostMove_stk : s.hostMove.stk = s.stk := rfl
@[simp] theorem State.hostMove_dt : s.hostMove.dt = countDown s.dt s.nextInput.ticks := rfl
@[simp] theorem State.hostMove_st : s.hostMove.st = countDown s.st s.nextInput.ticks := rfl
@[simp] theorem State.hostMove_waitActive : s.hostMove.waitActive = s.waitActive := rfl
@[simp] theorem State.hostMove_waitReg : s.hostMove.waitReg = s.waitReg := rfl
@[simp] theorem State.hostMove_fault : s.hostMove.fault = s.fault := rfl
@[simp] theorem State.hostMove_mem : s.hostMove.mem = s.mem := rfl
@[simp] theorem State.hostMove_fb : s.hostMove.fb = s.fb := rfl
@[simp] theorem State.hostMove_keys : s.hostMove.keys = s.nextInput.keys := rfl
@[simp] theorem State.hostMove_draw : s.hostMove.draw = s.nextInput.draw := rfl
@[simp] theorem State.hostMove_script : s.hostMove.script = s.script.tail := rfl
@[simp] theorem State.hostMove_samples : s.hostMove.samples = s.samples + 1 := rfl
@[simp] theorem State.hostMove_events : s.hostMove.events = [] := rfl

/-! ### loadRegs -/

@[simp] theorem State.loadRegs_cfg (x : RegIdx) (bs : List Byte) : (s.loadRegs x bs).cfg = s.cfg := rfl
@[simp] theorem State.loadRegs_v (x : RegIdx) (bs : List Byte) : (s.loadRegs x bs).v = Vector.ofFn (fun k : RegIdx => if k ≤ x then bs.getD k.val 0 else s.reg k) := rfl
@[simp] theorem State.loadRegs_pc (x : RegIdx) (bs : List Byte) : (s.loadRegs x bs).pc = s.pc := rfl
@[simp] theorem State.loadRegs_i (x : RegIdx) (bs : List Byte) : (s.loadRegs x bs).i = s.i := rfl
@[simp] theorem State.loadRegs_sp (x : RegIdx) (bs : List Byte) : (s.loadRegs x bs).sp = s.sp := rfl
@[simp] theorem State.loadRegs_stk (x : RegIdx) (bs : List Byte) : (s.loadRegs x bs).stk = s.stk := rfl
@[simp] theorem State.loadRegs_dt (x : RegIdx) (bs : List Byte) : (s.loadRegs x bs).dt = s.dt := rfl
@[simp] theorem State.loadRegs_st (x : RegIdx) (bs : List Byte) : (s.loadRegs x bs).st = s.st := rfl
@[simp] theorem State.loadRegs_waitActive (x : RegIdx) (bs : List Byte) : (s.loadRegs x bs).waitActive = s.waitActive := rfl
@[simp] theorem State.loadRegs_waitReg (x : RegIdx) (bs : List Byte) : (s.loadRegs x bs).waitReg = s.waitReg := rfl
@[simp] theorem State.loadRegs_fault (x : RegIdx) (bs : List Byte) : (s.loadRegs x bs).fault = s.fault := rfl
@[simp] theorem State.loadRegs_mem (x : RegIdx) (bs : List Byte) : (s.loadRegs x bs).mem = s.mem := rfl
@[simp] theorem State.loadRegs_fb (x : RegIdx) (bs : List Byte) : (s.loadRegs x bs).fb = s.fb := rfl
@[simp] theorem State.loadRegs_keys (x : RegIdx) (bs : List Byte) : (s.loadRegs x bs).keys = s.keys := rfl
@[simp] theorem State.loadRegs_draw (x : RegIdx) (bs : List Byte) : (s.loadRegs x bs).draw = s.draw := rfl
@[simp] theorem State.loadRegs_script (x : RegIdx) (bs : List Byte) : (s.loadRegs x bs).script = s.script := rfl
@[simp] theorem State.loadRegs_samples (x : RegIdx) (bs : List Byte) : (s.loadRegs x bs).samples = s.samples := rfl
@[simp] theorem State.loadRegs_events (x : RegIdx) (bs : List Byte) : (s.loadRegs x bs).events = s.events := rfl

/-! ### skipIf, jump -/

@[simp] theorem State.skipIf_cfg (c : Bool) : (s.skipIf c).cfg = s.cfg := rfl
@[simp] theorem State.skipIf_v (c : Bool) : (s.skipIf c).v = s.v := rfl
@[simp] theorem State.skipIf_pc (c : Bool) : (s.skipIf c).pc = if c then s.pc + 2 else s.pc := rfl
@[simp] theorem State.skipIf_i (c : Bool) : (s.skipIf c).i = s.i := rfl
@[simp] theorem State.skipIf_sp (c : Bool) : (s.skipIf c).sp = s.sp := rfl
@[simp] theorem State.skipIf_stk (c : Bool) : (s.skipIf c).stk = s.stk := rfl
@[simp] theorem State.skipIf_dt (c : Bool) : (s.skipIf c).dt = s.dt := rfl
@[simp] theorem State.skipIf_st (c : Bool) : (s.skipIf c).st = s.st := rfl
@[simp] theorem State.skipIf_waitActive (c : Bool) : (s.skipIf c).waitActive = s.waitActive := rfl
@[simp] theorem State.skipIf_waitReg (c : Bool) : (s.skipIf c).waitReg = s.waitReg := rfl
@[simp] theorem State.skipIf_fault (c : Bool) : (s.skipIf c).fault = s.fault := rfl
@[simp] theorem State.skipIf_mem (c : Bool) : (s.skipIf c).mem = s.mem := rfl
@[simp] theorem State.skipIf_fb (c : Bool) : (s.skipIf c).fb = s.fb := rfl
@[simp] theorem State.skipIf_keys (c : Bool) : (s.skipIf c).keys = s.keys := rfl
@[simp] theorem State.skipIf_draw (c : Bool) : (s.skipIf c).draw = s.draw := rfl
@[simp] theorem State.skipIf_script (c : Bool) : (s.skipIf c).script = s.script := rfl
@[simp] theorem State.skipIf_samples (c : Bool) : (s.skipIf c).samples = s.samples := rfl
@[simp] theorem State.skipIf_events (c : Bool) : (s.skipIf c).events = s.events := rfl

@[simp] theorem State.jump_cfg (t : Word) : (s.jump t).cfg = s.cfg := by
  unfold State.jump; split <;> simp
@[simp] theorem State.jump_v (t : Word) : (s.jump t).v = s.v := by
  unfold State.jump; split <;> simp
@[simp] theorem State.jump_pc (t : Word) : (s.jump t).pc = t := by
  unfold State.jump; split <;> simp
@[simp] theorem State.jump_i (t : Word) : (s.jump t).i = s.i := by
  unfold State.jump; split <;> simp
@[simp] theorem State.jump_sp (t : Word) : (s.jump t).sp = s.sp := by
  unfold State.jump; split <;> simp
@[simp] theorem State.jump_stk (t : Word) : (s.jump t).stk = s.stk := by
  unfold State.jump; split <;> simp
@[simp] theorem State.jump_dt (t : Word) : (s.jump t).dt = s.dt := by
  unfold State.jump; split <;> simp
@[simp] theorem State.jump_st (t : Word) : (s.jump t).st = s.st := by
  unfold State.jump; split <;> simp
@[simp] theorem State.jump_waitActive (t : Word) : (s.jump t).waitActive = s.waitActive := by
  unfold State.jump; split <;> simp
@[simp] theorem State.jump_waitReg (t : Word) : (s.jump t).waitReg = s.waitReg := by
  unfold State.jump; split <;> simp
@[simp] theorem State.jump_fault (t : Word) : (s.jump t).fault = s.fault := by
  unfold State.jump; split <;> simp
@[simp] theorem State.jump_mem (t : Word) : (s.jump t).mem = s.mem := by
  unfold State.jump; split <;> simp
@[simp] theorem State.jump_fb (t : Word) : (s.jump t).fb = s.fb := by
  unfold State.jump; split <;> simp
@[simp] theorem State.jump_keys (t : Word) : (s.jump t).keys = s.keys := by
  unfold State.jump; split <;> simp
@[simp] theorem State.jump_draw (t : Word) : (s.jump t).draw = s.draw := by
  unfold State.jump; split <;> simp
@[simp] theorem State.jump_script (t : Word) : (s.jump t).script = s.script := by
  unfold State.jump; split <;> simp
@[simp] theorem State.jump_samples (t : Word) : (s.jump t).samples = s.samples := by
  unfold State.jump; split <;> simp
@[simp] theorem State.jump_events (t : Word) : (s.jump t).events = s.events ++ (if t = s.fetchAddr then [.haltRecommended] else []) := by
  unfold State.jump; split <;> simp

end Sys2Proof.Machine
end

