-- ==== Sys2Proof/Laws/Memory.lean ====
section
/-! SUPPORT. Memory as an array of bytes (20_memory.md R51, R55, R64): a read after a write, and the canonical form.
The read laws hold for every list, canonical or not. -/

namespace Sys2Proof.Machine

variable (c : Config)

theorem Memory.get_insert (a b : Nat) (x : Byte) (m : List Host.Cell) :
    Memory.get c (Memory.insert a x m) b = if b = a then x else Memory.get c m b := by
  induction m with
  | nil => simp [Memory.insert, Memory.get]
  | cons e m ih =>
    simp only [Memory.insert]
    split
    · simp [Memory.get]
    · split
      · next h =>
        have h' : e.1 = a := h.symm
        by_cases hb : b = a <;> simp [Memory.get, hb, h']
      · next h1 h2 =>
        simp only [Memory.get, ih]
        by_cases hb : b = e.1
        · have : b ≠ a := fun h => h2 (h ▸ hb)
          simp [hb]; intro h; exact absurd (hb.trans h) this
        · simp [hb]

theorem Memory.get_filter (a b : Nat) (m : List Host.Cell) :
    Memory.get c (m.filter (fun e => e.1 ≠ a)) b = if b = a then resetByte c a else Memory.get c m b := by
  induction m with
  | nil => by_cases h : b = a <;> simp [Memory.get, h]
  | cons e m ih =>
    by_cases he : e.1 = a
    · simp only [List.filter_cons, he, ne_eq, not_true, decide_false, Bool.false_eq_true, if_false] at ih ⊢
      rw [ih]
      by_cases hb : b = a <;> simp [Memory.get, hb, he]
    · simp only [List.filter_cons, ne_eq, he, not_false_iff, decide_true, if_true, Memory.get] at ih ⊢
      rw [ih]
      by_cases hb : b = e.1
      · simp [hb, he]
      · simp [hb]

/-- Read after write: the byte written at its own address, the old byte at every other. -/
theorem Memory.get_set (m : List Host.Cell) (a b : Nat) (x : Byte) :
    Memory.get c (Memory.set c m a x) b = if b = a then x else Memory.get c m b := by
  unfold Memory.set
  split
  · next h => rw [Memory.get_filter, ← h]
  · exact Memory.get_insert c a b x m

/-- A ranged write, read back one byte at a time. -/
theorem Memory.get_setRange (bs : List Byte) (m : List Host.Cell) (a b : Nat) :
    Memory.get c (Memory.setRange c m a bs) b =
      if a ≤ b ∧ b < a + bs.length then bs.getD (b - a) 0 else Memory.get c m b := by
  induction bs generalizing m a with
  | nil => rw [Memory.setRange, if_neg (by simp)]
  | cons x bs ih =>
    rw [Memory.setRange, ih, Memory.get_set]
    by_cases h : b = a
    · subst h; simp
    · by_cases h1 : a + 1 ≤ b ∧ b < a + 1 + bs.length
      · have h2 : a ≤ b ∧ b < a + (x :: bs).length := by simp; omega
        have h3 : b - a = (b - (a + 1)) + 1 := by omega
        rw [if_pos h1, if_pos h2, h3]; simp
      · have h2 : ¬ (a ≤ b ∧ b < a + (x :: bs).length) := by simp; omega
        rw [if_neg h1, if_neg h2, if_neg h]

/-- A ranged read is the bytes at a, a + 1, ... (R55). -/
theorem Memory.getRange_eq (n : Nat) (m : List Host.Cell) (a : Nat) :
    Memory.getRange c m a n = (List.range n).map (fun k => Memory.get c m (a + k)) := by
  induction n generalizing a with
  | zero => rfl
  | succ n ih =>
    rw [Memory.getRange, ih, List.range_succ_eq_map]
    simp [Function.comp_def, Nat.add_assoc, Nat.add_comm 1]

@[simp] theorem Memory.getRange_length (n : Nat) (m : List Host.Cell) (a : Nat) :
    (Memory.getRange c m a n).length = n := by simp [Memory.getRange_eq]

theorem Memory.mem_insert (a : Nat) (x : Byte) (m : List Host.Cell) (e : Host.Cell)
    (h : e ∈ Memory.insert a x m) : e = (a, x) ∨ e ∈ m := by
  induction m with
  | nil => simpa [Memory.insert] using h
  | cons f m ih =>
    simp only [Memory.insert] at h
    split at h
    · simpa using h
    · split at h
      · next h2 => simp at h ⊢; tauto
      · simp at h ⊢
        rcases h with h | h
        · exact .inr (.inl h)
        · rcases ih h with h | h <;> tauto

theorem Memory.insert_sorted (a : Nat) (x : Byte) (m : List Host.Cell)
    (h : m.Pairwise (fun e f => e.1 < f.1)) : (Memory.insert a x m).Pairwise (fun e f => e.1 < f.1) := by
  induction m with
  | nil => simp [Memory.insert]
  | cons e m ih =>
    rw [List.pairwise_cons] at h
    simp only [Memory.insert]
    split
    · next hlt =>
      rw [List.pairwise_cons, List.pairwise_cons]
      refine ⟨fun f hf => ?_, h⟩
      rcases List.mem_cons.1 hf with rfl | hf
      · exact hlt
      · exact hlt.trans (h.1 f hf)
    · split
      · next heq => rw [List.pairwise_cons]; exact ⟨fun f hf => heq ▸ h.1 f hf, h.2⟩
      · next hlt hne =>
        rw [List.pairwise_cons]
        refine ⟨fun f hf => ?_, ih h.2⟩
        rcases Memory.mem_insert a x m f hf with rfl | hf
        · show e.1 < a; omega
        · exact h.1 f hf

/-- A write inside the store keeps the canonical form. -/
theorem Memory.set_wf (m : List Host.Cell) (a : Nat) (x : Byte) (ha : a < c.memSize) (h : Memory.wf c m) :
    Memory.wf c (Memory.set c m a x) := by
  unfold Memory.set
  split
  · exact ⟨h.1.filter _, fun e he => h.2 e (List.mem_filter.1 he).1⟩
  · next hx =>
    refine ⟨Memory.insert_sorted a x m h.1, fun e he => ?_⟩
    rcases Memory.mem_insert a x m e he with rfl | he
    · exact ⟨ha, hx⟩
    · exact h.2 e he

/-- A ranged write inside the store keeps the canonical form. -/
theorem Memory.setRange_wf (bs : List Byte) (m : List Host.Cell) (a : Nat) (ha : a + bs.length ≤ c.memSize)
    (h : Memory.wf c m) : Memory.wf c (Memory.setRange c m a bs) := by
  induction bs generalizing m a with
  | nil => exact h
  | cons x bs ih =>
    simp only [List.length_cons] at ha
    exact ih _ _ (by omega) (Memory.set_wf c m a x (by omega) h)

/-- Equal reads are equal memories, in the canonical form: what an observer cannot tell apart is the same data. -/
theorem Memory.ext (m m' : List Host.Cell) (h : Memory.wf c m) (h' : Memory.wf c m')
    (heq : ∀ a, Memory.get c m a = Memory.get c m' a) : m = m' := by
  have notin : ∀ (m : List Host.Cell) (a : Nat), (∀ e ∈ m, a < e.1) → Memory.get c m a = resetByte c a := by
    intro m a hm
    induction m with
    | nil => rfl
    | cons e m ih =>
      have : a ≠ e.1 := (hm e (by simp)).ne
      simp only [Memory.get, this, if_false]
      exact ih fun f hf => hm f (by simp [hf])
  induction m generalizing m' with
  | nil =>
    cases m' with
    | nil => rfl
    | cons e m' =>
      have := heq e.1
      simp [Memory.get] at this
      exact absurd this.symm (h'.2 e (by simp)).2
  | cons e m ih =>
    cases m' with
    | nil =>
      have := heq e.1
      simp [Memory.get] at this
      exact absurd this (h.2 e (by simp)).2
    | cons f m' =>
      have hs := List.pairwise_cons.1 h.1
      have hs' := List.pairwise_cons.1 h'.1
      have key : e.1 = f.1 := by
        rcases Nat.lt_trichotomy e.1 f.1 with hlt | he | hgt
        · have h1 := heq e.1
          rw [notin (f :: m') e.1 (by
            intro g hg
            rcases List.mem_cons.1 hg with rfl | hg
            · exact hlt
            · exact hlt.trans (hs'.1 g hg))] at h1
          simp [Memory.get] at h1
          exact absurd h1 (h.2 e (by simp)).2
        · exact he
        · have h1 := heq f.1
          rw [notin (e :: m) f.1 (by
            intro g hg
            rcases List.mem_cons.1 hg with rfl | hg
            · exact hgt
            · exact hgt.trans (hs.1 g hg))] at h1
          simp [Memory.get] at h1
          exact absurd h1.symm (h'.2 f (by simp)).2
      have hv : e.2 = f.2 := by
        have := heq e.1
        simpa [Memory.get, key] using this
      have hef : e = f := Prod.ext key hv
      subst hef
      congr 1
      refine ih m' ⟨hs.2, fun g hg => h.2 g (by simp [hg])⟩ ⟨hs'.2, fun g hg => h'.2 g (by simp [hg])⟩ fun a => ?_
      by_cases ha : a = e.1
      · subst ha; rw [notin m _ hs.1, notin m' _ hs'.1]
      · simpa [Memory.get, ha] using heq a

/-! ### Reads and writes through the state -/

theorem inBounds_iff (a n : Nat) : inBounds c a n = true ↔ n = 0 ∨ a + n ≤ c.memSize := by simp [inBounds]

/-- The byte of a state after a ranged write. -/
theorem State.byteAt_putBytes (s : State) (a b : Nat) (bs : List Byte) :
    (s.putBytes a bs).byteAt b = if a ≤ b ∧ b < a + bs.length then bs.getD (b - a) 0 else s.byteAt b :=
  Memory.get_setRange s.cfg bs s.mem a b

/-- Everything `memRead` can do. -/
theorem State.memRead_eq (s : State) (a n : Nat) :
    s.memRead a n = if n = 0 ∨ a + n ≤ s.cfg.memSize
      then some ((List.range n).map (fun k => s.byteAt (a + k))) else none := by
  unfold State.memRead
  simp only [inBounds_iff, Memory.getRange_eq, State.byteAt]

/-- Everything `memWrite` can do. -/
theorem State.memWrite_eq (s : State) (a : Nat) (bs : List Byte) :
    s.memWrite a bs = if bs.length = 0 ∨ a + bs.length ≤ s.cfg.memSize then some (s.putBytes a bs) else none := by
  unfold State.memWrite
  simp only [inBounds_iff]

/-- Two states with the same parameters and the same memory read the same bytes. -/
theorem State.byteAt_congr {s t : State} (hc : t.cfg = s.cfg) (hm : t.mem = s.mem) (a : Nat) :
    t.byteAt a = s.byteAt a := by rw [State.byteAt, State.byteAt, hc, hm]

end Sys2Proof.Machine
end

