-- ==== Sys2Proof/Laws/Registers.lean ====
section
/-! SUPPORT. The register file (10_state.md R21): a register holds what was last written to it. -/

namespace Sys2Proof.Machine

/-- Read after write: the written register its new value, every other its old one. -/
@[simp] theorem State.reg_setReg (s : State) (x r : RegIdx) (b : Byte) :
    (s.setReg x b).reg r = if r = x then b else s.reg r := by
  simp only [State.reg, State.setReg, Fin.getElem_fin, Vector.getElem_set]
  by_cases h : r = x
  · simp [h]
  · have : x.val ≠ r.val := fun hv => h (Fin.ext hv.symm)
    simp [h, this]

/-- Registers read the same where the register file is the same. -/
theorem State.reg_congr {s t : State} (h : t.v = s.v) (r : RegIdx) : t.reg r = s.reg r := by
  rw [State.reg, State.reg, h]

/-- FX65's load: registers up to x take the bytes, the others keep their values (R166). -/
theorem State.reg_loadRegs (s : State) (x r : RegIdx) (bs : List Byte) :
    (s.loadRegs x bs).reg r = if r ≤ x then bs.getD r.val 0 else s.reg r := by
  simp [State.reg, State.loadRegs]

/-- FX55's bytes: byte k is V[k], for k up to x (R165). -/
theorem State.firstRegs_getD (s : State) (x k : RegIdx) (h : k ≤ x) : (s.firstRegs x).getD k.val 0 = s.reg k := by
  have h1 : k.val < x.val + 1 := Nat.lt_succ_of_le h
  simp [State.firstRegs, State.reg, List.getD, h1]

@[simp] theorem State.firstRegs_length (s : State) (x : RegIdx) : (s.firstRegs x).length = x.val + 1 := by
  have := x.isLt
  simp [State.firstRegs]

@[simp] theorem vf_eq : vf = 15 := rfl

/-! The updates that leave the register file alone. -/

@[simp] theorem State.reg_setPc (s : State) (w : Word) (r : RegIdx) : (s.setPc w).reg r = s.reg r := State.reg_congr (by simp) r
@[simp] theorem State.reg_advance (s : State) (r : RegIdx) : s.advance.reg r = s.reg r := State.reg_congr (by simp) r
@[simp] theorem State.reg_setI (s : State) (w : Word) (r : RegIdx) : (s.setI w).reg r = s.reg r := State.reg_congr (by simp) r
@[simp] theorem State.reg_setDt (s : State) (b : Byte) (r : RegIdx) : (s.setDt b).reg r = s.reg r := State.reg_congr (by simp) r
@[simp] theorem State.reg_setSt (s : State) (b : Byte) (r : RegIdx) : (s.setSt b).reg r = s.reg r := State.reg_congr (by simp) r
@[simp] theorem State.reg_await (s : State) (x : RegIdx) (r : RegIdx) : (s.await x).reg r = s.reg r := State.reg_congr (by simp) r
@[simp] theorem State.reg_wake (s : State) (r : RegIdx) : s.wake.reg r = s.reg r := State.reg_congr (by simp) r
@[simp] theorem State.reg_signal (s : State) (e : OutEvent) (r : RegIdx) : (s.signal e).reg r = s.reg r := State.reg_congr (by simp) r
@[simp] theorem State.reg_putBytes (s : State) (a : Nat) (bs : List Byte) (r : RegIdx) : (s.putBytes a bs).reg r = s.reg r := State.reg_congr (by simp) r
@[simp] theorem State.reg_raise (s : State) (f : FaultRecord) (r : RegIdx) : (s.raise f).reg r = s.reg r := State.reg_congr (by simp) r
@[simp] theorem State.reg_setSp (s : State) (n : Nat) (r : RegIdx) : (s.setSp n).reg r = s.reg r := State.reg_congr (by simp) r
@[simp] theorem State.reg_push (s : State) (a : Word) (r : RegIdx) : (s.push a).reg r = s.reg r := State.reg_congr (by simp) r
@[simp] theorem State.reg_setFb (s : State) (fb : List Pixel) (r : RegIdx) : (s.setFb fb).reg r = s.reg r := State.reg_congr (by simp) r
@[simp] theorem State.reg_ticks (s : State) (n : Nat) (r : RegIdx) : (s.ticks n).reg r = s.reg r := State.reg_congr (by simp) r
@[simp] theorem State.reg_hostMove (s : State) (r : RegIdx) : s.hostMove.reg r = s.reg r := State.reg_congr (by simp) r
@[simp] theorem State.reg_skipIf (s : State) (c : Bool) (r : RegIdx) : (s.skipIf c).reg r = s.reg r := State.reg_congr (by simp) r
@[simp] theorem State.reg_jump (s : State) (a : Word) (r : RegIdx) : (s.jump a).reg r = s.reg r := State.reg_congr (by simp) r

end Sys2Proof.Machine
end

