-- ==== Sys2Proof/Laws/Stack.lean ====
section
/-! SUPPORT. The call stack (10_state.md R25 to R27, 41_control_flow.md R121, R123): what a push leaves at each offset
of STK, and the guards on the legal range of sp. -/

namespace Sys2Proof.Machine

/-- One byte of STK after a write inside the store. -/
theorem State.stkRead_stkWrite (s : State) (o p : Nat) (b : Byte) (h : o < s.stk.length) :
    (s.stkWrite o b).stkRead p = if p = o then b else s.stkRead p := by
  simp only [State.stkRead, State.stkWrite, List.getD_eq_getElem?_getD, List.getElem?_set]
  by_cases hp : p = o
  · subst hp; simp [h]
  · simp [hp, Ne.symm hp]

/-- The stack store reads the same where it is the same. -/
theorem State.stkRead_congr {s t : State} (h : t.stk = s.stk) (o : Nat) : t.stkRead o = s.stkRead o := by
  rw [State.stkRead, State.stkRead, h]

/-- A push inside the store: the high byte at sp, the low byte at sp + 1, every other byte as before (R123). -/
theorem State.stkRead_push (s : State) (a : Word) (p : Nat) (h : s.sp + 2 ≤ s.stk.length) :
    (s.push a).stkRead p = if p = s.sp then hiByte a else if p = s.sp + 1 then loByte a else s.stkRead p := by
  have h1 : s.sp + 1 < (s.stkWrite s.sp (hiByte a)).stk.length := by
    rw [State.stkWrite, List.length_set]; omega
  have h2 : (s.push a).stkRead p = ((s.stkWrite s.sp (hiByte a)).stkWrite (s.sp + 1) (loByte a)).stkRead p := rfl
  rw [h2, State.stkRead_stkWrite _ _ _ _ h1, State.stkRead_stkWrite _ _ _ _ (by omega)]
  by_cases hp : p = s.sp
  · subst hp; simp
  · simp [hp]

/-- The slot a push fills holds the address pushed. -/
theorem State.slot_push_self (s : State) (a : Word) (h : s.sp + 2 ≤ s.stk.length) : (s.push a).slot s.sp = a := by
  rw [State.slot, State.stkRead_push s a _ h, State.stkRead_push s a _ h]
  simp

/-- The slots below the one a push fills keep their addresses. -/
theorem State.slot_push_below (s : State) (a : Word) (o : Nat) (h : s.sp + 2 ≤ s.stk.length) (ho : o + 2 ≤ s.sp) :
    (s.push a).slot o = s.slot o := by
  rw [State.slot, State.stkRead_push s a _ h, State.stkRead_push s a _ h, if_neg (by omega), if_neg (by omega),
    if_neg (by omega), if_neg (by omega), State.slot]

theorem State.push_stk_length (s : State) (a : Word) : (s.push a).stk.length = s.stk.length := by simp

theorem State.hasRoom_iff (s : State) : s.hasRoom = true ↔ s.sp + 2 ≤ 2 * s.cfg.stackDepth := by simp [State.hasRoom]

theorem State.hasReturn_iff (s : State) : s.hasReturn = true ↔ 2 ≤ s.sp := by simp [State.hasReturn]

/-- On the legal range of sp the guard of 2NNN fails exactly when every slot is in use (R123, R223). -/
theorem State.hasRoom_iff_ne (s : State) (h : s.sp % 2 = 0) (h2 : s.sp ≤ 2 * s.cfg.stackDepth) :
    s.hasRoom = true ↔ s.sp ≠ 2 * s.cfg.stackDepth := by rw [State.hasRoom_iff]; omega

/-- On the legal range of sp the guard of 00EE fails exactly when no address is held (R121, R224). -/
theorem State.hasReturn_iff_ne (s : State) (h : s.sp % 2 = 0) : s.hasReturn = true ↔ s.sp ≠ 0 := by
  rw [State.hasReturn_iff]; omega

end Sys2Proof.Machine
end

