-- ==== Sys2Proof/Laws/Frame.lean ====
section
/-! SUPPORT. Frames: from equal fields to an unchanged part, composition, and the frame of each shared operation that
more than one instruction uses. -/

namespace Sys2Proof.Machine

/-- A frame from equal fields: a part is either listed or its fields are equal. -/
theorem Frame.of_fields {regs : List RegIdx} {parts : List Part} {s t : State}
    (hr : ∀ r, r ∉ regs → t.reg r = s.reg r) (hcfg : t.cfg = s.cfg)
    (hpc : Part.pc ∈ parts ∨ t.pc = s.pc) (hi : Part.index ∈ parts ∨ t.i = s.i)
    (hstk : Part.stack ∈ parts ∨ t.sp = s.sp ∧ t.stk = s.stk)
    (hdt : Part.delay ∈ parts ∨ t.dt = s.dt) (hst : Part.sound ∈ parts ∨ t.st = s.st)
    (hl : Part.latch ∈ parts ∨ t.waitActive = s.waitActive ∧ t.waitReg = s.waitReg)
    (hf : Part.fault ∈ parts ∨ t.fault = s.fault) (hm : Part.memory ∈ parts ∨ t.mem = s.mem)
    (hfb : Part.screen ∈ parts ∨ t.fb = s.fb)
    (hh : Part.host ∈ parts ∨ t.keys = s.keys ∧ t.draw = s.draw ∧ t.script = s.script ∧ t.samples = s.samples)
    (he : Part.events ∈ parts ∨ t.events = s.events) : Frame regs parts s t := by
  refine ⟨hr, fun p hp => ?_⟩
  cases p
  · exact hpc.resolve_left hp
  · exact hi.resolve_left hp
  · exact ⟨(hstk.resolve_left hp).1, State.stkRead_congr (hstk.resolve_left hp).2⟩
  · exact hdt.resolve_left hp
  · exact hst.resolve_left hp
  · exact hl.resolve_left hp
  · exact hf.resolve_left hp
  · exact State.byteAt_congr hcfg (hm.resolve_left hp)
  · intro p; rw [State.pixel, State.pixel, hfb.resolve_left hp]
  · exact ⟨hcfg, hh.resolve_left hp⟩
  · exact he.resolve_left hp

theorem Part.same_refl (p : Part) (s : State) : p.same s s := by cases p <;> simp [Part.same]

theorem Part.same_trans {p : Part} {s t u : State} (h : p.same s t) (h' : p.same t u) : p.same s u := by
  cases p <;> simp_all [Part.same]

theorem Frame.refl (regs : List RegIdx) (parts : List Part) (s : State) : Frame regs parts s s :=
  ⟨fun _ _ => rfl, fun p _ => p.same_refl s⟩

theorem Frame.trans {regs : List RegIdx} {parts : List Part} {s t u : State} (h : Frame regs parts s t)
    (h' : Frame regs parts t u) : Frame regs parts s u :=
  ⟨fun r hr => (h'.1 r hr).trans (h.1 r hr), fun p hp => Part.same_trans (h.2 p hp) (h'.2 p hp)⟩

/-- More may be listed than changes. -/
theorem Frame.mono {regs regs' : List RegIdx} {parts parts' : List Part} {s t : State} (h : Frame regs parts s t)
    (hr : regs ⊆ regs') (hp : parts ⊆ parts') : Frame regs' parts' s t :=
  ⟨fun r hn => h.1 r fun hm => hn (hr hm), fun p hn => h.2 p fun hm => hn (hp hm)⟩

/-- R225: taking a fault changes the record, and the event list for a fault that has an event. -/
theorem State.raise_frame (s : State) (f : FaultRecord) (h : f.events = []) : Frame [] [.fault] s (s.raise f) := by
  apply Frame.of_fields <;> simp [State.reg, h]

/-- R55: a ranged write changes Memory only. -/
theorem State.putBytes_frame (s : State) (a : Nat) (bs : List Byte) : Frame [] [.memory] s (s.putBytes a bs) := by
  apply Frame.of_fields <;> simp [State.reg]

/-- R129: a skip changes pc only. -/
theorem State.skipIf_frame (s : State) (c : Bool) : Frame [] [.pc] s (s.skipIf c) := by
  apply Frame.of_fields <;> simp [State.reg]

/-- R122, R130: a jump changes pc and the event list only. -/
theorem State.jump_frame (s : State) (a : Word) : Frame [] [.pc, .events] s (s.jump a) := by
  apply Frame.of_fields <;> simp [State.reg]

/-- A register write changes that register only. -/
theorem State.setReg_frame (s : State) (x : RegIdx) (b : Byte) : Frame [x] [] s (s.setReg x b) := by
  apply Frame.of_fields <;> simp +contextual

/-- R112, R207: the host's move changes the timers, the inputs and the event list only. -/
theorem State.hostMove_frame (s : State) : Frame [] [.delay, .sound, .host, .events] s s.hostMove := by
  refine ⟨fun r _ => State.reg_congr (by simp) r, fun p hp => ?_⟩
  cases p <;> first | (exact absurd (by decide) hp) | (simp [Part.same]; done) | skip
  · exact ⟨by simp, State.stkRead_congr (by simp)⟩
  · exact State.byteAt_congr (by simp) (by simp)
  · intro p; simp [State.pixel]

end Sys2Proof.Machine
end

