-- ==== Sys2Proof/Laws/PerInstr.lean ====
section
/-! SUPPORT. Statements about every instruction as syntax, one lemma per constructor. -/

namespace Sys2Proof.Laws.FitsItsRow

/-- The word of an instruction fits the mask and match of its own row of R86 (R83). -/
def Statement (i : Instr) : Prop := i.row.fits (encodeWord i) = true

/-- The high byte of a word with opcode `op` and second nibble `x`. -/
theorem hiByte_of (w : Word) (op x : Nat) (h : w.toNat / 256 = op * 16 + x) :
    hiByte w = BitVec.ofNat 8 (op * 16 + x) := by
  have := w.isLt
  apply BitVec.eq_of_toNat_eq; rw [hiByte_toNat, h, BitVec.toNat_ofNat]; omega

/-- The low byte of a word. -/
theorem loByte_of (w : Word) (lo : Nat) (h : w.toNat % 256 = lo) : loByte w = BitVec.ofNat 8 lo := by
  apply BitVec.eq_of_toNat_eq; rw [loByte_toNat, h, BitVec.toNat_ofNat]; omega

/-- Format A: opcode `op`, mask 0xF000. -/
theorem fits_nnn (r : OpcodeRow) (op : Nat) (nnn : Word) (hop : op < 16)
    (hhi : ∀ x : Fin 16, BitVec.ofNat 8 (op * 16 + x.val) &&& hiByte r.mask = hiByte r.bits)
    (hlo : loByte r.mask = 0 ∧ loByte r.bits = 0) : r.fits (packNnn op nnn) = true := by
  have e := packNnn_toNat op nnn hop
  rw [OpcodeRow.fits_iff, hiByte_of _ op (nnn.toNat / 256 % 16) (by omega)]
  exact ⟨hhi ⟨nnn.toNat / 256 % 16, Nat.mod_lt _ (by decide)⟩, by simp [hlo]⟩

/-- Formats XI and XF: opcode `op`, low byte `nn`. -/
theorem fits_xnn (r : OpcodeRow) (op : Nat) (x : RegIdx) (nn : Byte) (hop : op < 16)
    (hhi : ∀ x : Fin 16, BitVec.ofNat 8 (op * 16 + x.val) &&& hiByte r.mask = hiByte r.bits)
    (hlo : nn &&& loByte r.mask = loByte r.bits) : r.fits (packXNn op x nn) = true := by
  have e := packXNn_toNat op x nn hop
  have := nn.isLt
  rw [OpcodeRow.fits_iff, hiByte_of _ op x.val (by omega), loByte_of _ nn.toNat (by omega), BitVec.ofNat_toNat,
    BitVec.setWidth_eq]
  exact ⟨hhi x, hlo⟩

/-- Formats XY and XYN: opcode `op`, low nibble `n`. -/
theorem fits_xyn (r : OpcodeRow) (op : Nat) (x y : RegIdx) (n : Nat) (hop : op < 16)
    (hhi : ∀ x : Fin 16, BitVec.ofNat 8 (op * 16 + x.val) &&& hiByte r.mask = hiByte r.bits)
    (hlo : ∀ y : Fin 16, BitVec.ofNat 8 (y.val * 16 + n % 16) &&& loByte r.mask = loByte r.bits) :
    r.fits (packXYN op x y n) = true := by
  have e := packXYN_toNat op x y n hop
  have := y.isLt
  rw [OpcodeRow.fits_iff, hiByte_of _ op x.val (by omega), loByte_of _ (y.val * 16 + n % 16) (by omega)]
  exact ⟨hhi x, hlo y⟩

theorem cls : Statement .cls := by
  show OpcodeRow.fits _ _ = true; decide

theorem ret : Statement .ret := by
  show OpcodeRow.fits _ _ = true; decide

theorem jp (nnn : Word) : Statement (.jp nnn) := 
  fits_nnn _ _ nnn (by decide)
    (by dsimp only [Instr.row]; decide) (by dsimp only [Instr.row]; decide)

theorem call (nnn : Word) : Statement (.call nnn) := 
  fits_nnn _ _ nnn (by decide)
    (by dsimp only [Instr.row]; decide) (by dsimp only [Instr.row]; decide)

theorem seVxNn (x : RegIdx) (nn : Byte) : Statement (.seVxNn x nn) := 
  fits_xnn _ _ x nn (by decide)
    (by dsimp only [Instr.row]; decide) (by simp [Instr.row, loByte])

theorem sneVxNn (x : RegIdx) (nn : Byte) : Statement (.sneVxNn x nn) := 
  fits_xnn _ _ x nn (by decide)
    (by dsimp only [Instr.row]; decide) (by simp [Instr.row, loByte])

theorem seVxVy (x : RegIdx) (y : RegIdx) : Statement (.seVxVy x y) := 
  fits_xyn _ _ x y _ (by decide)
    (by dsimp only [Instr.row]; decide) (by dsimp only [Instr.row]; decide)

theorem ldVxNn (x : RegIdx) (nn : Byte) : Statement (.ldVxNn x nn) := 
  fits_xnn _ _ x nn (by decide)
    (by dsimp only [Instr.row]; decide) (by simp [Instr.row, loByte])

theorem addVxNn (x : RegIdx) (nn : Byte) : Statement (.addVxNn x nn) := 
  fits_xnn _ _ x nn (by decide)
    (by dsimp only [Instr.row]; decide) (by simp [Instr.row, loByte])

theorem ldVxVy (x : RegIdx) (y : RegIdx) : Statement (.ldVxVy x y) := 
  fits_xyn _ _ x y _ (by decide)
    (by dsimp only [Instr.row]; decide) (by dsimp only [Instr.row]; decide)

theorem orVxVy (x : RegIdx) (y : RegIdx) : Statement (.orVxVy x y) := 
  fits_xyn _ _ x y _ (by decide)
    (by dsimp only [Instr.row]; decide) (by dsimp only [Instr.row]; decide)

theorem andVxVy (x : RegIdx) (y : RegIdx) : Statement (.andVxVy x y) := 
  fits_xyn _ _ x y _ (by decide)
    (by dsimp only [Instr.row]; decide) (by dsimp only [Instr.row]; decide)

theorem xorVxVy (x : RegIdx) (y : RegIdx) : Statement (.xorVxVy x y) := 
  fits_xyn _ _ x y _ (by decide)
    (by dsimp only [Instr.row]; decide) (by dsimp only [Instr.row]; decide)

theorem addVxVy (x : RegIdx) (y : RegIdx) : Statement (.addVxVy x y) := 
  fits_xyn _ _ x y _ (by decide)
    (by dsimp only [Instr.row]; decide) (by dsimp only [Instr.row]; decide)

theorem subVxVy (x : RegIdx) (y : RegIdx) : Statement (.subVxVy x y) := 
  fits_xyn _ _ x y _ (by decide)
    (by dsimp only [Instr.row]; decide) (by dsimp only [Instr.row]; decide)

theorem shrVx (x : RegIdx) (y : RegIdx) : Statement (.shrVx x y) := 
  fits_xyn _ _ x y _ (by decide)
    (by dsimp only [Instr.row]; decide) (by dsimp only [Instr.row]; decide)

theorem subnVxVy (x : RegIdx) (y : RegIdx) : Statement (.subnVxVy x y) := 
  fits_xyn _ _ x y _ (by decide)
    (by dsimp only [Instr.row]; decide) (by dsimp only [Instr.row]; decide)

theorem shlVx (x : RegIdx) (y : RegIdx) : Statement (.shlVx x y) := 
  fits_xyn _ _ x y _ (by decide)
    (by dsimp only [Instr.row]; decide) (by dsimp only [Instr.row]; decide)

theorem sneVxVy (x : RegIdx) (y : RegIdx) : Statement (.sneVxVy x y) := 
  fits_xyn _ _ x y _ (by decide)
    (by dsimp only [Instr.row]; decide) (by dsimp only [Instr.row]; decide)

theorem ldINnn (nnn : Word) : Statement (.ldINnn nnn) := 
  fits_nnn _ _ nnn (by decide)
    (by dsimp only [Instr.row]; decide) (by dsimp only [Instr.row]; decide)

theorem jpV0 (nnn : Word) : Statement (.jpV0 nnn) := 
  fits_nnn _ _ nnn (by decide)
    (by dsimp only [Instr.row]; decide) (by dsimp only [Instr.row]; decide)

theorem rndVxNn (x : RegIdx) (nn : Byte) : Statement (.rndVxNn x nn) := 
  fits_xnn _ _ x nn (by decide)
    (by dsimp only [Instr.row]; decide) (by simp [Instr.row, loByte])

theorem drw (x : RegIdx) (y : RegIdx) (n : Nat) : Statement (.drw x y n) := 
  fits_xyn _ _ x y n (by decide)
    (by dsimp only [Instr.row]; decide) (by intro y; simp [Instr.row, loByte])

theorem skpVx (x : RegIdx) : Statement (.skpVx x) := 
  fits_xnn _ _ x _ (by decide)
    (by dsimp only [Instr.row]; decide) (by dsimp only [Instr.row]; decide)

theorem sknpVx (x : RegIdx) : Statement (.sknpVx x) := 
  fits_xnn _ _ x _ (by decide)
    (by dsimp only [Instr.row]; decide) (by dsimp only [Instr.row]; decide)

theorem ldVxDt (x : RegIdx) : Statement (.ldVxDt x) := 
  fits_xnn _ _ x _ (by decide)
    (by dsimp only [Instr.row]; decide) (by dsimp only [Instr.row]; decide)

theorem ldVxK (x : RegIdx) : Statement (.ldVxK x) := 
  fits_xnn _ _ x _ (by decide)
    (by dsimp only [Instr.row]; decide) (by dsimp only [Instr.row]; decide)

theorem ldDtVx (x : RegIdx) : Statement (.ldDtVx x) := 
  fits_xnn _ _ x _ (by decide)
    (by dsimp only [Instr.row]; decide) (by dsimp only [Instr.row]; decide)

theorem ldStVx (x : RegIdx) : Statement (.ldStVx x) := 
  fits_xnn _ _ x _ (by decide)
    (by dsimp only [Instr.row]; decide) (by dsimp only [Instr.row]; decide)

theorem addIVx (x : RegIdx) : Statement (.addIVx x) := 
  fits_xnn _ _ x _ (by decide)
    (by dsimp only [Instr.row]; decide) (by dsimp only [Instr.row]; decide)

theorem ldFVx (x : RegIdx) : Statement (.ldFVx x) := 
  fits_xnn _ _ x _ (by decide)
    (by dsimp only [Instr.row]; decide) (by dsimp only [Instr.row]; decide)

theorem ldBVx (x : RegIdx) : Statement (.ldBVx x) := 
  fits_xnn _ _ x _ (by decide)
    (by dsimp only [Instr.row]; decide) (by dsimp only [Instr.row]; decide)

theorem ldMemVx (x : RegIdx) : Statement (.ldMemVx x) := 
  fits_xnn _ _ x _ (by decide)
    (by dsimp only [Instr.row]; decide) (by dsimp only [Instr.row]; decide)

theorem ldVxMem (x : RegIdx) : Statement (.ldVxMem x) := 
  fits_xnn _ _ x _ (by decide)
    (by dsimp only [Instr.row]; decide) (by dsimp only [Instr.row]; decide)

end Sys2Proof.Laws.FitsItsRow
end

