-- ==== Sys2Proof/Laws/Reset.lean ====
section
/-! SUPPORT. What Reset leaves (70_reset_and_hazards.md R250): its memory and its canonical form. -/

namespace Sys2Proof.Machine

/-- The bytes of Memory after Reset: the program, the font, 0x00. -/
theorem State.byteAt_afterReset (s : State) (font program : List Byte) (a : Nat) :
    (s.afterReset font program).byteAt a =
      if s.cfg.progBase ≤ a ∧ a < s.cfg.progBase + program.length then program.getD (a - s.cfg.progBase) 0
      else if s.cfg.fontBase ≤ a ∧ a < s.cfg.fontBase + 80 then font.getD (a - s.cfg.fontBase) 0 else 0 := by
  have h : (s.afterReset font program).byteAt a =
    Memory.get { s.cfg with font := font } (Memory.setRange { s.cfg with font := font } [] s.cfg.progBase program) a := rfl
  rw [h, Memory.get_setRange]
  rfl

/-- A program that fits leaves a memory in canonical form. -/
theorem State.afterReset_memory_wf (s : State) (font program : List Byte)
    (h : s.cfg.progBase + program.length ≤ s.cfg.memSize) :
    Memory.wf (s.afterReset font program).cfg (s.afterReset font program).mem :=
  Memory.setRange_wf { s.cfg with font := font } program [] s.cfg.progBase h ⟨.nil, nofun⟩

/-- The memory of `State.reset` lists nothing, which is canonical. -/
theorem State.reset_memory_wf : Memory.wf State.reset.cfg State.reset.mem := ⟨.nil, nofun⟩

/-- An in-bounds write through the state keeps the canonical form. -/
theorem State.memWrite_wf {s t : State} {a : Nat} {bs : List Byte} (h : s.memWrite a bs = some t)
    (hs : Memory.wf s.cfg s.mem) : Memory.wf t.cfg t.mem := by
  rw [State.memWrite_eq] at h
  split at h
  · next hb =>
    cases h
    rcases hb with hb | hb
    · rw [List.length_eq_zero_iff.1 hb]; exact hs
    · exact Memory.setRange_wf s.cfg bs s.mem a hb hs
  · cases h

end Sys2Proof.Machine
end

