-- ==== Sys2Proof/Laws/Screen.lean ====
section
/-! SUPPORT. The framebuffer as a grid of bits (10_state.md R34), and what the blit does to it (44_display.md R182). -/

namespace Sys2Proof.Machine

/-- Read after write: the pixel written its new value, every other pixel its old one. -/
theorem Screen.get_set (fb : List Pixel) (p q : Pixel) (b : Bool) :
    Screen.get (Screen.set fb p b) q = if q = p then b else Screen.get fb q := by
  have hins : ∀ fb : List Pixel, q ∈ Screen.insert p fb ↔ q = p ∨ q ∈ fb := by
    intro fb
    induction fb with
    | nil => simp [Screen.insert]
    | cons r fb ih =>
      simp only [Screen.insert]
      split
      · next h => subst h; simp
      · split
        · simp
        · simp only [List.mem_cons, ih]; tauto
  cases b with
  | true =>
    simp only [Screen.get, Screen.set, if_true, List.contains_eq_mem, hins]
    by_cases h : q = p <;> simp [h]
  | false =>
    simp only [Screen.get, Screen.set, List.contains_eq_mem]
    by_cases h : q = p <;> simp [h]

theorem Pixel.before_trans {p q r : Pixel} (h1 : Pixel.before p q = true) (h2 : Pixel.before q r = true) :
    Pixel.before p r = true := by
  simp [Pixel.before] at *; omega

theorem Pixel.before_total {p q : Pixel} (h1 : p ≠ q) (h2 : ¬ Pixel.before p q = true) : Pixel.before q p = true := by
  have : ¬ (p.1 = q.1 ∧ p.2 = q.2) := fun h => h1 (Prod.ext h.1 h.2)
  simp [Pixel.before] at *; omega

/-- A write inside the grid keeps the canonical form. -/
theorem Screen.set_wf (c : Config) (fb : List Pixel) (p : Pixel) (b : Bool)
    (hp : p.1 < c.fbWidth ∧ p.2 < c.fbHeight) (h : Screen.wf c fb) : Screen.wf c (Screen.set fb p b) := by
  have hmem : ∀ (fb : List Pixel) (r : Pixel), r ∈ Screen.insert p fb → r = p ∨ r ∈ fb := by
    intro fb r hr
    induction fb with
    | nil => simpa [Screen.insert] using hr
    | cons q fb ih =>
      simp only [Screen.insert] at hr
      split at hr
      · exact .inr hr
      · split at hr
        · simpa using hr
        · simp only [List.mem_cons] at hr ⊢
          rcases hr with hr | hr
          · tauto
          · rcases ih hr with hr | hr <;> tauto
  cases b with
  | false => exact ⟨h.1.filter _, fun q hq => h.2 q (List.mem_filter.1 hq).1⟩
  | true =>
    refine ⟨?_, fun q hq => ?_⟩
    · obtain ⟨hs, -⟩ := h
      simp only [Screen.set, if_true]
      induction fb with
      | nil => simp [Screen.insert]
      | cons q fb ih =>
        have hs' := List.pairwise_cons.1 hs
        simp only [Screen.insert]
        split
        · exact hs
        · split
          · next hb =>
            refine List.pairwise_cons.2 ⟨fun r hr => ?_, hs⟩
            rcases List.mem_cons.1 hr with rfl | hr
            · exact hb
            · exact Pixel.before_trans hb (hs'.1 r hr)
          · next hne hb =>
            refine List.pairwise_cons.2 ⟨fun r hr => ?_, ih hs'.2⟩
            rcases hmem fb r hr with rfl | hr
            · exact Pixel.before_total hne hb
            · exact hs'.1 r hr
    · simp only [Screen.set, if_true] at hq
      rcases hmem fb q hq with rfl | hq
      · exact hp
      · exact h.2 q hq

/-! ### The blit -/

theorem blitBit_fst_get (p q : Pixel) (bit : Bool) (acc : List Pixel × Bool) :
    Screen.get (blitBit p bit acc).1 q = if q = p then xor (Screen.get acc.1 p) bit else Screen.get acc.1 q := by
  simp only [blitBit, Screen.get_set]

theorem blitBit_snd (p : Pixel) (bit : Bool) (acc : List Pixel × Bool) :
    (blitBit p bit acc).2 = (acc.2 || (bit && Screen.get acc.1 p)) := by
  simp only [blitBit]
  cases Screen.get acc.1 p <;> cases bit <;> simp

/-- The bits of a sprite from row `row` on, each with its pixel, in the order the blit takes them. -/
def spriteBits (c : Config) (vx vy : Nat) : Nat → List Byte → List (Pixel × Bool)
  | _, [] => []
  | row, b :: bs =>
    columns.map (fun col => (spritePixel c vx vy row col, b.getLsbD (7 - col))) ++ spriteBits c vx vy (row + 1) bs

/-- The blit is one `blitBit` for each bit, in order. -/
theorem blitRows_eq (c : Config) (vx vy : Nat) (bs : List Byte) (row : Nat) (acc : List Pixel × Bool) :
    blitRows c vx vy row bs acc = (spriteBits c vx vy row bs).foldl (fun acc pb => blitBit pb.1 pb.2 acc) acc := by
  induction bs generalizing row acc with
  | nil => rfl
  | cons b bs ih => rw [blitRows, ih, spriteBits, List.foldl_append, List.foldl_map]; rfl

/-- A run of bits on pixels that are all different: every pixel is inverted exactly when some 1 bit is on it, and the
collision is whether a 1 bit met a set pixel. -/
theorem blitBits_spec (l : List (Pixel × Bool)) (hl : (l.map Prod.fst).Nodup) (acc : List Pixel × Bool) :
    (∀ q, Screen.get (l.foldl (fun acc pb => blitBit pb.1 pb.2 acc) acc).1 q
        = xor (Screen.get acc.1 q) (decide ((q, true) ∈ l))) ∧
    ((l.foldl (fun acc pb => blitBit pb.1 pb.2 acc) acc).2 = true ↔
        acc.2 = true ∨ ∃ q, (q, true) ∈ l ∧ Screen.get acc.1 q = true) := by
  induction l generalizing acc with
  | nil => simp
  | cons pb l ih =>
    obtain ⟨p, bit⟩ := pb
    simp only [List.map_cons, List.nodup_cons, List.mem_map] at hl
    have hp : ∀ b, (p, b) ∉ l := fun b hb => hl.1 ⟨(p, b), hb, rfl⟩
    obtain ⟨ih1, ih2⟩ := ih hl.2 (blitBit p bit acc)
    refine ⟨fun q => ?_, ?_⟩
    · rw [List.foldl_cons, ih1, blitBit_fst_get]
      by_cases hq : q = p
      · subst hq; cases bit <;> simp [hp]
      · simp [hq]
    · rw [List.foldl_cons, ih2, blitBit_snd, Bool.or_eq_true, or_assoc]
      refine or_congr Iff.rfl ?_
      rw [Bool.and_eq_true]
      constructor
      · rintro (⟨hb, hg⟩ | ⟨q, hq, hg⟩)
        · exact ⟨p, by simp [hb], hg⟩
        · have hne : q ≠ p := fun h => hp true (h ▸ hq)
          rw [blitBit_fst_get, if_neg hne] at hg
          exact ⟨q, by simp [hq], hg⟩
      · rintro ⟨q, hq, hg⟩
        rcases List.mem_cons.1 hq with h | hq
        · obtain ⟨rfl, rfl⟩ := Prod.mk.inj h
          exact .inl ⟨rfl, hg⟩
        · have hne : q ≠ p := fun h => hp true (h ▸ hq)
          exact .inr ⟨q, hq, by rw [blitBit_fst_get, if_neg hne]; exact hg⟩

/-- A bit of the sprite and its pixel: row and column of it. -/
theorem mem_spriteBits (c : Config) (vx vy : Nat) (bs : List Byte) (row : Nat) (p : Pixel) (b : Bool) :
    (p, b) ∈ spriteBits c vx vy row bs ↔
      ∃ r col : Nat, r < bs.length ∧ col < 8 ∧ p = spritePixel c vx vy (row + r) col ∧ b = (bs.getD r 0).getLsbD (7 - col) := by
  induction bs generalizing row with
  | nil => simp [spriteBits]
  | cons x bs ih =>
    have hcol : ∀ col : Nat, col ∈ columns ↔ col < 8 := by intro col; simp [columns]; omega
    rw [spriteBits, List.mem_append, ih, List.mem_map]
    constructor
    · rintro (⟨col, hc, h⟩ | ⟨r, col, hr, hc, h1, h2⟩)
      · simp only [Prod.mk.injEq] at h
        exact ⟨0, col, by simp, (hcol col).1 hc, by simp [h.1], by simp [h.2]⟩
      · exact ⟨r + 1, col, by simpa using hr, hc, by rw [h1]; congr 1; omega, by simpa using h2⟩
    · rintro ⟨r, col, hr, hc, h1, h2⟩
      cases r with
      | zero => exact .inl ⟨col, (hcol col).2 hc, by simp [h1, h2]⟩
      | succ r => exact .inr ⟨r, col, by simpa using hr, hc, by rw [h1]; congr 1; omega, by simpa using h2⟩

/-- "No two bits of one sprite land on the same pixel" (R182): at least 8 columns and at least as many rows as the
sprite has. -/
theorem spriteBits_nodup (c : Config) (vx vy : Nat) (bs : List Byte) (row : Nat) (hw : 8 ≤ c.fbWidth)
    (hh : row + bs.length ≤ c.fbHeight ∨ bs.length ≤ c.fbHeight) :
    ((spriteBits c vx vy row bs).map Prod.fst).Nodup := by
  have hlen : bs.length ≤ c.fbHeight := by omega
  have hmod : ∀ m a i j : Nat, i < m → j < m → (a + i) % m = (a + j) % m → i = j := by
    intro m a i j hi hj h
    have := (Nat.ModEq.add_left_cancel' a h : i ≡ j [MOD m])
    rwa [Nat.ModEq, Nat.mod_eq_of_lt hi, Nat.mod_eq_of_lt hj] at this
  clear hh
  induction bs generalizing row with
  | nil => simp [spriteBits]
  | cons x bs ih =>
    simp only [List.length_cons] at hlen
    rw [spriteBits, List.map_append, List.nodup_append]
    refine ⟨?_, ih (row + 1) (by omega), ?_⟩
    · rw [List.map_map]
      refine List.Nodup.map_on ?_ (by decide)
      intro i hi j hj h
      have hi : i < 8 := by simp [columns] at hi; omega
      have hj : j < 8 := by simp [columns] at hj; omega
      simp only [Function.comp, spritePixel, Prod.mk.injEq] at h
      exact hmod c.fbWidth vx i j (by omega) (by omega) h.1
    · intro p hp q hq heq
      subst heq
      simp only [List.mem_map] at hp hq
      obtain ⟨⟨p1, b1⟩, ⟨col, -, h1⟩, rfl⟩ := hp
      obtain ⟨⟨p2, b2⟩, h2, h3⟩ := hq
      obtain ⟨r, col2, hr, -, h4, -⟩ := (mem_spriteBits c vx vy bs (row + 1) p2 b2).1 h2
      simp only [Prod.mk.injEq] at h1
      simp only at h3
      have h5 : spritePixel c vx vy row col = spritePixel c vx vy (row + 1 + r) col2 := by rw [h1.1, ← h3, h4]
      simp only [spritePixel, Prod.mk.injEq] at h5
      have h6 := h5.2
      rw [Nat.add_assoc row 1 r, ← Nat.add_assoc vy row] at h6
      have := hmod c.fbHeight (vy + row) 0 (1 + r) (by omega) (by omega) (by simpa using h6)
      omega

/-- The whole blit on a canonical grid is canonical, whatever the sprite. -/
theorem drawSprite_wf (c : Config) (vx vy : Byte) (bs : List Byte) (fb : List Pixel) (hw : 0 < c.fbWidth)
    (hh : 0 < c.fbHeight) (h : Screen.wf c fb) : Screen.wf c (drawSprite c vx vy bs fb).1 := by
  have hrow : ∀ (row : Nat) (b : Byte) (cols : List Nat) (acc : List Pixel × Bool), Screen.wf c acc.1 →
      Screen.wf c (cols.foldl (fun acc col =>
        blitBit (spritePixel c vx.toNat vy.toNat row col) (b.getLsbD (7 - col)) acc) acc).1 := by
    intro row b cols
    induction cols with
    | nil => intro acc h; exact h
    | cons col cols ih =>
      intro acc h
      exact ih _ (Screen.set_wf c _ _ _ ⟨Nat.mod_lt _ hw, Nat.mod_lt _ hh⟩ h)
  have : ∀ (bs : List Byte) (row : Nat) (acc : List Pixel × Bool), Screen.wf c acc.1 →
      Screen.wf c (blitRows c vx.toNat vy.toNat row bs acc).1 := by
    intro bs
    induction bs with
    | nil => intro row acc h; exact h
    | cons b bs ih => intro row acc h; exact ih _ _ (hrow row b columns acc h)
  exact this bs 0 (fb, false) h

end Sys2Proof.Machine
end

