-- ==== Sys2Proof/Laws/Step.lean ====
section
/-! SUPPORT. What a step can do (40_step_cycle.md R100 to R108): the three branches of a Step event, the shape of every
instruction's outcome, the key poll, and the host's Ticks. -/

namespace Sys2Proof.Machine

/-! ### Ticks -/

theorem countDown_toNat (t : Byte) (n : Nat) : (countDown t n).toNat = t.toNat - n := by
  rw [countDown, BitVec.toNat_ofNat]
  have := t.isLt
  omega

theorem countDown_zero (t : Byte) : countDown t 0 = t := by
  apply BitVec.eq_of_toNat_eq; rw [countDown_toNat]; omega

/-- Counting down by n + 1 is counting down by n, then by 1 (R111). -/
theorem countDown_succ (t : Byte) (n : Nat) : countDown t (n + 1) = countDown (countDown t n) 1 := by
  apply BitVec.eq_of_toNat_eq; simp only [countDown_toNat]; omega

theorem State.ticks_zero (s : State) : s.ticks 0 = s := by simp [State.ticks, countDown_zero]

theorem State.ticks_succ (s : State) (n : Nat) : s.ticks (n + 1) = (s.ticks n).tick := by
  simp only [State.tick, State.ticks, countDown_succ _ n]

/-! ### The key poll (R101) -/

/-- The key the poll takes: it is down, and every lower one is up. -/
theorem lowestKey_eq_some (keys : BitVec 16) (k : RegIdx) :
    lowestKey keys = some k ↔ keys.getLsbD k.val = true ∧ ∀ j : RegIdx, j < k → keys.getLsbD j.val = false := by
  have hsort : keyOrder.Pairwise (· < ·) := by decide
  have hmem : ∀ k : RegIdx, k ∈ keyOrder := by decide
  constructor
  · intro h
    obtain ⟨hk, as, bs, heq, has⟩ := List.find?_eq_some_iff_append.1 h
    refine ⟨by simpa using hk, fun j hj => ?_⟩
    have hj' : j ∈ as := by
      have hm := hmem j
      rw [heq] at hm hsort
      rcases List.mem_append.1 hm with h1 | h1
      · exact h1
      · rcases List.mem_cons.1 h1 with h2 | h2
        · exact absurd h2 (ne_of_lt hj)
        · have := (List.pairwise_cons.1 (List.pairwise_append.1 hsort).2.1).1 j h2
          exact absurd hj (lt_asymm this)
    simpa using has j hj'
  · rintro ⟨hk, hlow⟩
    cases hf : lowestKey keys with
    | none => exact absurd hk (by simpa using List.find?_eq_none.1 hf k (hmem k))
    | some m =>
      obtain ⟨hm, as, bs, heq, has⟩ := List.find?_eq_some_iff_append.1 hf
      rcases lt_trichotomy m k with h | h | h
      · rw [hlow m h] at hm; exact absurd hm (by decide)
      · rw [h]
      · have hk' := hmem k
        rw [heq] at hk' hsort
        rcases List.mem_append.1 hk' with h1 | h1
        · have h2 := has k h1; rw [hk] at h2; exact absurd h2 (by decide)
        · rcases List.mem_cons.1 h1 with h2 | h2
          · rw [h2]
          · have := (List.pairwise_cons.1 (List.pairwise_append.1 hsort).2.1).1 k h2
            exact absurd h (lt_asymm this)

/-- The poll takes no key exactly when none is down. -/
theorem lowestKey_eq_none (keys : BitVec 16) : lowestKey keys = none ↔ ∀ k : RegIdx, keys.getLsbD k.val = false := by
  have hmem : ∀ k : RegIdx, k ∈ keyOrder := by decide
  rw [lowestKey, List.find?_eq_none]
  exact ⟨fun h k => by simpa using h k (hmem k), fun h k _ => by rw [h k]; decide⟩

/-! ### The step -/

/-- The whole step, on the fields of the state it starts from. -/
theorem step_eq (s : State) : step s =
    match s.fault, s.waitActive, decide (s.pc.toNat + 2 ≤ s.cfg.memSize), decodeWord s.fetchWord with
    | some f, _, _, _ => .fault (.stopped f)
    | none, true, _, _ => .next s.hostMove.pollKeys
    | none, false, true, some i => exec i s.hostMove.advance
    | none, false, true, none => .next (s.hostMove.advance.raise (.unimplementedInstruction s.fetchWord s.pc))
    | none, false, false, _ => .next (s.hostMove.raise (.outOfBounds s.pc.toNat 2)) := by
  have h1 : ∀ w : Bool, (if w = true then Host.Outcome.next s.hostMove.pollKeys else runInstruction s.hostMove) =
      match w with | true => Host.Outcome.next s.hostMove.pollKeys | false => runInstruction s.hostMove := by
    intro w; cases w <;> rfl
  have h2 : runInstruction s.hostMove = match decide (s.pc.toNat + 2 ≤ s.cfg.memSize), decodeWord s.fetchWord with
    | true, some i => exec i s.hostMove.advance
    | true, none => .next (s.hostMove.advance.raise (.unimplementedInstruction s.fetchWord s.pc))
    | false, _ => .next (s.hostMove.raise (.outOfBounds s.pc.toNat 2)) := by
    have h3 : inBounds s.hostMove.cfg s.hostMove.pc.toNat 2 = decide (s.pc.toNat + 2 ≤ s.cfg.memSize) := by
      rw [Bool.eq_iff_iff, inBounds_iff, decide_eq_true_iff]; simp
    have h4 : s.hostMove.fetchWord = s.fetchWord := rfl
    unfold runInstruction
    rw [h3, h4]
    generalize decide (s.pc.toNat + 2 ≤ s.cfg.memSize) = b
    cases b <;> cases decodeWord s.fetchWord <;> rfl
  show stepEvent s.hostMove = _
  have h5 : stepEvent s.hostMove = match s.fault with
    | some f => .fault (.stopped f)
    | none => match s.waitActive with
      | true => Host.Outcome.next s.hostMove.pollKeys
      | false => runInstruction s.hostMove := by
    rw [← h1]; rfl
  rw [h5, h2]
  generalize decide (s.pc.toNat + 2 ≤ s.cfg.memSize) = b
  cases s.fault <;> cases s.waitActive <;> cases b <;> cases decodeWord s.fetchWord <;> rfl

/-- Everything a step that answers a next state can be: no fault was recorded, and it polled the keys, ran a decoded
instruction, met an unimplemented word, or could not fetch. -/
theorem step_cases {s t : State} (h : step s = .next t) : s.fault = none ∧
    ((s.waitActive = true ∧ t = s.hostMove.pollKeys) ∨
     (s.waitActive = false ∧ s.pc.toNat + 2 ≤ s.cfg.memSize ∧
       ∃ i, decodeWord s.fetchWord = some i ∧ exec i s.hostMove.advance = .next t) ∨
     (s.waitActive = false ∧ s.pc.toNat + 2 ≤ s.cfg.memSize ∧ decodeWord s.fetchWord = none ∧
       t = s.hostMove.advance.raise (.unimplementedInstruction s.fetchWord s.pc)) ∨
     (s.waitActive = false ∧ s.cfg.memSize < s.pc.toNat + 2 ∧ t = s.hostMove.raise (.outOfBounds s.pc.toNat 2))) := by
  rw [step_eq] at h
  split at h <;> simp_all

/-- A fault an instruction raises signals no event (R225(4)). -/
abbrev FaultRecord.Silent (f : FaultRecord) : Prop := f.events = []

/-- The shape of every instruction's outcome: it either raised a silent fault and did nothing else, or left the fault
record as it was; in both cases the parameters and the inputs are as they were. -/
theorem exec_cases {i : Instr} {s t : State} (h : exec i s = .next t) :
    (t.cfg = s.cfg ∧ t.keys = s.keys ∧ t.draw = s.draw ∧ t.script = s.script ∧ t.samples = s.samples) ∧
    ((∃ f : FaultRecord, f.Silent ∧ t = s.raise f) ∨ t.fault = s.fault) := by
  cases i with
  | ret =>
    change execRet s = _ at h; unfold execRet at h
    split at h <;> cases h
    · simp
    · exact ⟨by simp, .inl ⟨_, rfl, rfl⟩⟩
  | call nnn =>
    change execCall nnn s = _ at h; unfold execCall at h
    split at h <;> cases h
    · simp
    · exact ⟨by simp, .inl ⟨_, rfl, rfl⟩⟩
  | drw x y n =>
    change execDrw x y n s = _ at h; unfold execDrw at h
    split at h <;> cases h
    · simp
    · exact ⟨by simp, .inl ⟨_, rfl, rfl⟩⟩
  | ldBVx x =>
    change execLdBVx x s = _ at h; unfold execLdBVx at h; rw [State.memWrite_eq] at h
    split at h
    · next u hu => split at hu <;> cases hu; cases h; simp
    · cases h; exact ⟨by simp, .inl ⟨_, rfl, rfl⟩⟩
  | ldMemVx x =>
    change execLdMemVx x s = _ at h; unfold execLdMemVx at h; rw [State.memWrite_eq] at h
    split at h
    · next u hu => split at hu <;> cases hu; cases h; simp
    · cases h; exact ⟨by simp, .inl ⟨_, rfl, rfl⟩⟩
  | ldVxMem x =>
    change execLdVxMem x s = _ at h; unfold execLdVxMem at h
    split at h <;> cases h
    · simp
    · exact ⟨by simp, .inl ⟨_, rfl, rfl⟩⟩
  | _ => cases h; simp

end Sys2Proof.Machine
end

