-- ==== Sys2Proof/Tests/Slice0.lean ====
section
/-! SUPPORT. Tests of the model against words written out by hand from the encoding column of 30_encoding.md R86 and
against the vectors of spec/95_test_vectors.md (each named by its id there), and a witness for the hypotheses of every
obligation that has some. -/

namespace Sys2Proof.Tests

open Sys2Proof Sys2Proof.Machine

/-! ### WellFormed: one ill-formed term for each check, refused (R82) -/

theorem test_jp_address_too_wide : (Instr.jp 0x1000).wellFormed = false := by decide
theorem test_call_address_too_wide : (Instr.call 0x1000).wellFormed = false := by decide
theorem test_ldINnn_address_too_wide : (Instr.ldINnn 0xF000).wellFormed = false := by decide
theorem test_jpV0_address_too_wide : (Instr.jpV0 0x1000).wellFormed = false := by decide
theorem test_drw_rows_too_many : (Instr.drw 0 0 16).wellFormed = false := by decide
theorem test_widest_fields_fit :
    (Instr.jp 0xFFF).wellFormed = true ∧ (Instr.call 0xFFF).wellFormed = true ∧ (Instr.ldINnn 0xFFF).wellFormed = true ∧
    (Instr.jpV0 0xFFF).wellFormed = true ∧ (Instr.drw 15 15 15).wellFormed = true := by decide

/-! ### Decoding: a word for every constructor, written out from R86 -/

theorem test_decode_control :
    decodeWord 0x00E0 = some .cls ∧ decodeWord 0x00EE = some .ret ∧ decodeWord 0x1ABC = some (.jp 0xABC) ∧
    decodeWord 0x220E = some (.call 0x20E) ∧ decodeWord 0x3342 = some (.seVxNn 3 0x42) ∧
    decodeWord 0x4342 = some (.sneVxNn 3 0x42) ∧ decodeWord 0x5120 = some (.seVxVy 1 2) ∧
    decodeWord 0x9120 = some (.sneVxVy 1 2) ∧ decodeWord 0xB1F0 = some (.jpV0 0x1F0) := by decide

theorem test_decode_load_and_alu :
    decodeWord 0x6A3C = some (.ldVxNn 10 0x3C) ∧ decodeWord 0x7103 = some (.addVxNn 1 3) ∧
    decodeWord 0x8120 = some (.ldVxVy 1 2) ∧ decodeWord 0x8121 = some (.orVxVy 1 2) ∧
    decodeWord 0x8122 = some (.andVxVy 1 2) ∧ decodeWord 0x8123 = some (.xorVxVy 1 2) ∧
    decodeWord 0x80F4 = some (.addVxVy 0 15) ∧ decodeWord 0x8F05 = some (.subVxVy 15 0) ∧
    decodeWord 0x8376 = some (.shrVx 3 7) ∧ decodeWord 0x8107 = some (.subnVxVy 1 0) ∧
    decodeWord 0x8F0E = some (.shlVx 15 0) ∧ decodeWord 0xC30F = some (.rndVxNn 3 0x0F) := by decide

theorem test_decode_index_memory_display :
    decodeWord 0xA2F0 = some (.ldINnn 0x2F0) ∧ decodeWord 0xD012 = some (.drw 0 1 2) ∧
    decodeWord 0xF21E = some (.addIVx 2) ∧ decodeWord 0xF029 = some (.ldFVx 0) ∧ decodeWord 0xF533 = some (.ldBVx 5) ∧
    decodeWord 0xF155 = some (.ldMemVx 1) ∧ decodeWord 0xF265 = some (.ldVxMem 2) := by decide

theorem test_decode_keys_and_timers :
    decodeWord 0xE39E = some (.skpVx 3) ∧ decodeWord 0xE3A1 = some (.sknpVx 3) ∧ decodeWord 0xF407 = some (.ldVxDt 4) ∧
    decodeWord 0xF30A = some (.ldVxK 3) ∧ decodeWord 0xFA15 = some (.ldDtVx 10) ∧
    decodeWord 0xF218 = some (.ldStVx 2) := by decide

/-- T6 to T15: words that are no instruction (R88). -/
theorem test_decode_rejects :
    decodeWord 0x0000 = none ∧ decodeWord 0x0FFF = none ∧ decodeWord 0x00E1 = none ∧ decodeWord 0x00FD = none ∧
    decodeWord 0x5011 = none ∧ decodeWord 0x8018 = none ∧ decodeWord 0x801F = none ∧ decodeWord 0x9011 = none ∧
    decodeWord 0xE09F = none ∧ decodeWord 0xF000 = none ∧ decodeWord 0xF075 = none := by decide

/-- Byte order (R56, R80): the high byte comes first, and what follows the two bytes is left over. -/
theorem test_decode_bytes : decode [0x12, 0x34, 0x56] = .ok (.jp 0x234, [0x56]) ∧ decode [0x12] = .error .truncated ∧
    decode [0xF0, 0x75] = .error (.unimplemented 0xF075) := by decide

theorem test_table_word : decodeTableWord 16 0xD012 = some (.drw 0 1 2) ∧ decodeTableWord 16 0x0FFF = none := by decide

theorem test_encode_bytes : encode (.drw 0 1 2) = [0xD0, 0x12] ∧ encode (.jp 0x234) = [0x12, 0x34] := by decide

/-! ### States and runs for the tests -/

/-- The reset state with one scripted host input: no Tick, the given keys and draw. -/
def hosted (keys : BitVec 16) (draw : Byte) : State := { State.reset with script := [⟨0, keys, draw⟩] }

/-- The reset state, no key down. -/
def start : State := hosted 0 0

/-- Registers set one after the other. -/
def State.withRegs (s : State) (l : List (RegIdx × Byte)) : State := l.foldl (fun s p => s.setReg p.1 p.2) s

/-- The next step with the word placed where it fetches. -/
def runWord (w : Nat) (s : State) : Result := step (s.withFetchWord 16 w)

/-- What a function of the state gives after the step, where the step answers a next state. -/
def after {α : Type} (r : Result) (f : State → α) : Option α :=
  match r with
  | .next t => some (f t)
  | .fault _ => none
  | .refused _ => none

/-- The fault a result stops with. -/
def faultOf (r : Result) : Option Fault :=
  match r with
  | .next _ => none
  | .fault f => some f
  | .refused _ => none

/-- pc, the fault record and the events. -/
def flow (t : State) : Word × Option FaultRecord × List OutEvent := (t.pc, t.fault, t.events)

/-! ### Fetch and the step cycle -/

/-- T2: the last word of Memory is fetched; pc ends at 0x1000. -/
theorem test_fetch_at_the_end :
    after (runWord 0x6155 { start with pc := 0xFFE }) (fun t => (flow t, t.reg 1)) = some ((0x1000, none, []), 0x55) := by
  decide

/-- T4: a fetch one byte further faults and pc stays. -/
theorem test_fetch_past_the_end :
    after (step { start with pc := 0xFFF }) flow = some (0x0FFF, some (.outOfBounds 0xFFF 2), []) := by decide

/-- T5: a fetch at an odd address. -/
theorem test_fetch_odd_address :
    after (runWord 0x6177 { start with pc := 0x201 }) (fun t => (t.pc, t.reg 1)) = some (0x203, 0x77) := by decide

/-- S8: an unimplemented word. -/
theorem test_unimplemented_word : after (runWord 0x0FFF start) flow =
    some (0x202, some (.unimplementedInstruction 0x0FFF 0x200), [.fatalError 0x0FFF 0x200]) := by decide

/-- R108: a faulted core has no step. -/
theorem test_faulted_core_stops :
    faultOf (step { start with fault := some (.stackUnderflow 0x200) }) = some (.stopped (.stackUnderflow 0x200)) ∧
    faultOf (step { start with fault := none }) = none := by decide

/-- The first step from the reset state with nothing placed: a zero word is no instruction (T6). -/
theorem test_first_step_of_empty_memory :
    after (step start) flow = some (0x202, some (.unimplementedInstruction 0 0x200), [.fatalError 0 0x200]) := by decide

/-- K11: the poll takes the lowest of keys 7 and 9 and fetches nothing. -/
theorem test_poll_takes_lowest_key :
    after (step { hosted 0x0280 0 with waitActive := true, waitReg := 3, pc := 0x206 })
      (fun t => (t.pc, t.reg 3, t.waitActive, t.waitReg)) = some (0x206, 7, false, 3) := by decide

/-- K10: with no key down the poll changes nothing. -/
theorem test_poll_without_key :
    after (step { start with waitActive := true, waitReg := 3, pc := 0x206 })
      (fun t => (t.pc, t.reg 3, t.waitActive)) = some (0x206, 0, true) := by decide

/-- X1 and X3: a Tick decrements both timers and stops at 0. -/
theorem test_tick :
    after (onEvent .tick { start with dt := 60, st := 2 }) (fun t => (t.dt, t.st)) = some (59, 1) ∧
    after (onEvent .tick start) (fun t => (t.dt, t.st)) = some (0, 0) := by decide

/-- X9: a Tick before the Step that runs 0xF007. -/
theorem test_tick_before_step :
    after (runWord 0xF007 { State.reset with script := [⟨1, 0, 0⟩], dt := 5 }) (fun t => (t.dt, t.reg 0)) =
      some (4, 4) := by decide

/-- X7: a Tick is accepted in a faulted core (decision D20). -/
theorem test_tick_of_faulted_core :
    after (onEvent .tick { start with fault := some (.unimplementedInstruction 0x0FFF 0x200), dt := 10, st := 3 })
      (fun t => (t.dt, t.st, t.fault)) = some (9, 2, some (.unimplementedInstruction 0x0FFF 0x200)) := by decide

/-! ### Control flow -/

/-- F1. -/
theorem test_ret :
    after (runWord 0x00EE { (start.stkWrite 0 0x02).stkWrite 1 0x06 with sp := 2, pc := 0x20E })
      (fun t => (t.pc, t.sp, t.stkRead 1)) = some (0x206, 0, 0x06) := by decide

/-- F2. -/
theorem test_ret_on_empty_stack :
    after (runWord 0x00EE start) flow = some (0x202, some (.stackUnderflow 0x200), []) := by decide

/-- F3. -/
theorem test_jp : after (runWord 0x1ABC start) flow = some (0xABC, none, []) := by decide

/-- F4. -/
theorem test_jp_to_itself : after (runWord 0x1200 start) flow = some (0x200, none, [.haltRecommended]) := by decide

/-- F8: the last free slot. -/
theorem test_call :
    after (runWord 0x2400 { start with sp := 30 }) (fun t => (t.pc, t.sp, t.stkRead 30, t.stkRead 31)) =
      some (0x400, 32, 0x02, 0x02) := by decide

/-- F9. -/
theorem test_call_on_full_stack :
    after (runWord 0x2400 { start with sp := 32 }) (fun t => (flow t, t.sp)) =
      some ((0x202, some (.stackOverflow 0x200), []), 32) := by decide

/-- F13: the sum is not reduced to 12 bits. -/
theorem test_jpV0 : after (runWord 0xBFFF (start.setReg 0 0xFF)) flow = some (0x10FE, none, []) := by decide

/-- F12. -/
theorem test_jpV0_to_itself :
    after (runWord 0xB1F0 (start.setReg 0 0x10)) flow = some (0x200, none, [.haltRecommended]) := by decide

/-- F15, F16. -/
theorem test_seVxNn :
    after (runWord 0x3342 (start.setReg 3 0x42)) State.pc = some 0x204 ∧
    after (runWord 0x3342 (start.setReg 3 0x41)) State.pc = some 0x202 := by decide

/-- F17, F18. -/
theorem test_sneVxNn :
    after (runWord 0x4342 (start.setReg 3 0x42)) State.pc = some 0x202 ∧
    after (runWord 0x4342 (start.setReg 3 0x41)) State.pc = some 0x204 := by decide

/-- F19, F20. -/
theorem test_seVxVy :
    after (runWord 0x5120 (State.withRegs start [(1, 7), (2, 7)])) State.pc = some 0x204 ∧
    after (runWord 0x5120 (State.withRegs start [(1, 7), (2, 8)])) State.pc = some 0x202 := by decide

/-- F22, F23. -/
theorem test_sneVxVy :
    after (runWord 0x9120 (State.withRegs start [(1, 7), (2, 8)])) State.pc = some 0x204 ∧
    after (runWord 0x9120 (State.withRegs start [(1, 7), (2, 7)])) State.pc = some 0x202 := by decide

/-! ### Load, arithmetic and logic -/

/-- A1. -/
theorem test_ldVxNn : after (runWord 0x6FAB start) (fun t => t.reg 15) = some 0xAB := by decide

/-- A2: no carry is reported. -/
theorem test_addVxNn :
    after (runWord 0x7103 (State.withRegs start [(1, 0xFE), (15, 1)])) (fun t => (t.reg 1, t.reg 15)) =
      some (0x01, 1) := by decide

/-- A5. -/
theorem test_ldVxVy : after (runWord 0x8120 (start.setReg 2 0x7B)) (fun t => t.reg 1) = some 0x7B := by decide

/-- A6: VF keeps its value. -/
theorem test_orVxVy :
    after (runWord 0x8121 (State.withRegs start [(1, 0x0F), (2, 0xF0), (15, 1)])) (fun t => (t.reg 1, t.reg 15)) =
      some (0xFF, 1) := by decide

/-- A7. -/
theorem test_andVxVy :
    after (runWord 0x8122 (State.withRegs start [(1, 0x3C), (2, 0x0F)])) (fun t => t.reg 1) = some 0x0C := by decide

/-- A8. -/
theorem test_xorVxVy :
    after (runWord 0x8123 (State.withRegs start [(1, 0xFF), (2, 0x0F)])) (fun t => t.reg 1) = some 0xF0 := by decide

/-- A10. -/
theorem test_addVxVy_carry :
    after (runWord 0x8014 (State.withRegs start [(0, 0xFF), (1, 2)])) (fun t => (t.reg 0, t.reg 15)) =
      some (0x01, 1) := by decide

/-- A14: VF as the destination ends as the carry. -/
theorem test_addVxVy_to_vf :
    after (runWord 0x8F04 (State.withRegs start [(0, 0x64), (15, 0xC8)])) (fun t => t.reg 15) = some 1 := by decide

/-- A17. -/
theorem test_subVxVy_borrow :
    after (runWord 0x8015 (State.withRegs start [(0, 1), (1, 2)])) (fun t => (t.reg 0, t.reg 15)) =
      some (0xFF, 0) := by decide

/-- A18: equal operands do not borrow. -/
theorem test_subVxVy_equal :
    after (runWord 0x8015 (State.withRegs start [(0, 0x10), (1, 0x10)])) (fun t => (t.reg 0, t.reg 15)) =
      some (0x00, 1) := by decide

/-- A24: y is ignored. -/
theorem test_shrVx :
    after (runWord 0x8376 (State.withRegs start [(3, 5), (7, 0xAA)])) (fun t => (t.reg 3, t.reg 7, t.reg 15)) =
      some (2, 0xAA, 1) := by decide

/-- A26: the flag first, then the shift of it (decision D12). -/
theorem test_shrVx_of_vf : after (runWord 0x8F06 (start.setReg 15 0xFF)) (fun t => t.reg 15) = some 0 := by decide

/-- A27. -/
theorem test_subnVxVy :
    after (runWord 0x8107 (State.withRegs start [(1, 2), (0, 0x7F)])) (fun t => (t.reg 1, t.reg 15)) =
      some (0x7D, 1) := by decide

/-- A28. -/
theorem test_subnVxVy_borrow :
    after (runWord 0x8107 (State.withRegs start [(1, 5), (0, 3)])) (fun t => (t.reg 1, t.reg 15)) =
      some (0xFE, 0) := by decide

/-- A30. -/
theorem test_shlVx :
    after (runWord 0x800E (start.setReg 0 0xFF)) (fun t => (t.reg 0, t.reg 15)) = some (0xFE, 1) := by decide

/-- A33: 2, the one flag that is not 0 or 1 (decision D12). -/
theorem test_shlVx_of_vf : after (runWord 0x8F0E (start.setReg 15 0xFF)) (fun t => t.reg 15) = some 2 := by decide

/-- A35: the draw is the host's. -/
theorem test_rndVxNn : after (runWord 0xC30F (hosted 0 0xA7)) (fun t => t.reg 3) = some 0x07 := by decide

/-! ### Index register and memory -/

/-- M1. -/
theorem test_ldINnn : after (runWord 0xA2F0 start) State.i = some 0x2F0 := by decide

/-- M4: a sum of 0xFFF is no overflow. -/
theorem test_addIVx_no_wrap :
    after (runWord 0xF21E (({ start with i := 0xF00 } : State).setReg 2 0xFF)) (fun t => (t.i, t.reg 15)) =
      some (0xFFF, 0) := by decide

/-- M5: 0x1000 is. -/
theorem test_addIVx_wraps :
    after (runWord 0xF21E (({ start with i := 0xF01 } : State).setReg 2 0xFF)) (fun t => (t.i, t.reg 15)) =
      some (0x000, 1) := by decide

/-- M10. -/
theorem test_ldFVx : after (runWord 0xF029 (start.setReg 0 0x0F)) State.i = some 0x04B := by decide

/-- M11: V[x] is not masked. -/
theorem test_ldFVx_not_masked : after (runWord 0xF029 (start.setReg 0 0xFF)) State.i = some 0x4FB := by decide

/-- M14: the last three bytes of Memory. -/
theorem test_ldBVx :
    after (runWord 0xF533 (({ start with i := 0xFFD } : State).setReg 5 0xFF))
      (fun t => (t.byteAt 0xFFD, t.byteAt 0xFFE, t.byteAt 0xFFF)) = some (2, 5, 5) := by decide

/-- M15: out of bounds nothing is written. -/
theorem test_ldBVx_out_of_bounds :
    after (runWord 0xF533 (({ start with i := 0xFFE } : State).setReg 5 0xFF))
      (fun t => (flow t, t.byteAt 0xFFE)) = some ((0x202, some (.outOfBounds 0xFFE 3), []), 0) := by decide

/-- M18: V[2] is not stored and I stays. -/
theorem test_ldMemVx :
    after (runWord 0xF155 (State.withRegs { start with i := 0x307 } [(0, 1), (1, 5), (2, 0x77)]))
      (fun t => (t.byteAt 0x307, t.byteAt 0x308, t.byteAt 0x309, t.i)) = some (1, 5, 0, 0x307) := by decide

/-- M22. -/
theorem test_ldMemVx_out_of_bounds :
    after (runWord 0xF155 (({ start with i := 0xFFF } : State).setReg 0 7)) (fun t => (flow t, t.byteAt 0xFFF)) =
      some ((0x202, some (.outOfBounds 0xFFF 2), []), 0) := by decide

/-- M24: the glyph of digit 0; V[5] keeps its value. -/
theorem test_ldVxMem :
    after (runWord 0xF465 (start.setReg 5 9))
      (fun t => (t.reg 0, t.reg 1, t.reg 4, t.reg 5, t.i)) = some (0xF0, 0x90, 0xF0, 9, 0) := by decide

/-- M26: out of bounds no register is written. -/
theorem test_ldVxMem_out_of_bounds :
    after (runWord 0xF165 (({ start with i := 0xFFF } : State).setReg 0 1)) (fun t => (t.fault, t.reg 0)) =
      some (some (.outOfBounds 0xFFF 2), 1) := by decide

/-! ### Framebuffer -/

/-- G1. -/
theorem test_cls :
    after (runWord 0x00E0 { start with fb := [(0, 0), (10, 5), (63, 31)] }) (fun t => (t.fb, flow t)) =
      some ([], 0x202, none, [.displayChanged]) := by decide

/-- G4: the sprite wraps at the right edge and at the bottom edge. The pixels are listed row by row. -/
theorem test_drw_wraps :
    after (runWord 0xD012 ((State.withRegs { start with i := 0x20E } [(0, 0x3E), (1, 0x1F)]).putBytes 0x20E [0xC3, 0x81]))
      (fun t => (t.fb, t.reg 15, t.events)) =
      some ([(5, 0), (62, 0), (4, 31), (5, 31), (62, 31), (63, 31)], 0, [.displayChanged]) := by decide

/-- G6: one pixel erased, one set; the collision is reported. -/
theorem test_drw_collision :
    after (runWord 0xD011 (({ start with i := 0x300, fb := [(0, 0)] } : State).putBytes 0x300 [0xC0]))
      (fun t => (t.fb, t.reg 15)) = some ([(1, 0)], 1) := by decide

/-! ### Keypad and timers -/

/-- K1, K2. -/
theorem test_skpVx :
    after (runWord 0xE39E ((hosted 0x0080 0).setReg 3 7)) State.pc = some 0x204 ∧
    after (runWord 0xE39E ((hosted 0xFF7F 0).setReg 3 7)) State.pc = some 0x202 := by decide

/-- K4, K6: 0x17 is no key and is not reduced. -/
theorem test_sknpVx :
    after (runWord 0xE3A1 ((hosted 0x0080 0).setReg 3 7)) State.pc = some 0x202 ∧
    after (runWord 0xE3A1 ((hosted 0xFFFF 0).setReg 3 0x17)) State.pc = some 0x204 := by decide

/-- K9: the keys are not looked at. -/
theorem test_ldVxK :
    after (runWord 0xF30A { hosted 0xFFFF 0 with pc := 0x204 }) (fun t => (t.pc, t.waitActive, t.waitReg, t.reg 3)) =
      some (0x206, true, 3, 0) := by decide

/-- K15. -/
theorem test_ldVxDt : after (runWord 0xF407 { start with dt := 57 }) (fun t => t.reg 4) = some 0x39 := by decide

/-- K16. -/
theorem test_ldDtVx :
    after (runWord 0xFA15 (({ start with dt := 5 } : State).setReg 10 0x3C)) State.dt = some 60 := by decide

/-- K17. -/
theorem test_ldStVx : after (runWord 0xF218 (start.setReg 2 5)) State.st = some 5 := by decide

/-! ### Witnesses: for each obligation with hypotheses, a state and operands that meet them all

Where a statement has several clauses, each has its own witness, at a boundary value. -/

theorem test_witness_EncodeThenDecode :
    (Instr.drw 15 15 15).wellFormed = true ∧ (Instr.jpV0 0xFFF).wellFormed = true ∧ (Instr.jp 0).wellFormed = true := by
  decide

theorem test_witness_DecodeThenEncode : decodeWord 0xDFFF = some (.drw 15 15 15) := by decide

theorem test_witness_DecodeIsTheMaskMatch :
    (Instr.row (.ldVxMem 0)) ∈ opcodeMap ∧ (Instr.row (.ldVxMem 0)).fits 0xFF65 = true ∧
    (Instr.row (.ldVxMem 0)).fits 0xFF66 = false := by decide

/-- A decoded instruction in the last word of Memory. -/
theorem test_witness_StepRunsTheDecodedInstruction :
    let s := { start with pc := 0xFFE }.putBytes 0xFFE [0x61, 0x55]
    s.fault = none ∧ s.waitActive = false ∧ s.pc.toNat + 2 ≤ s.cfg.memSize ∧
    decode [s.byteAt s.pc.toNat, s.byteAt (s.pc.toNat + 1)] = .ok (.ldVxNn 1 0x55, []) := by decide

theorem test_witness_HostMoveIsTicksThenSample : start.script = ⟨0, 0, 0⟩ :: [] := by decide

theorem test_witness_FetchPastMemoryFaults :
    let s := { start with pc := 0xFFF }
    s.fault = none ∧ s.waitActive = false ∧ s.cfg.memSize < s.pc.toNat + 2 := by decide

theorem test_witness_UnimplementedWordFaults :
    let s := { start with pc := 0xFFE }
    s.fault = none ∧ s.waitActive = false ∧ s.pc.toNat + 2 ≤ s.cfg.memSize ∧
    ∀ r ∈ opcodeMap, r.fits (be16 (s.byteAt s.pc.toNat) (s.byteAt (s.pc.toNat + 1))) = false := by decide

/-- Both clauses: no key down; the highest key alone down. -/
theorem test_witness_PollTakesTheLowestKey :
    let s := { start with waitActive := true }
    let t := { hosted 0x8000 0 with waitActive := true }
    (s.fault = none ∧ s.waitActive = true ∧ ∀ k : RegIdx, s.hostMove.keys.getLsbD k.val = false) ∧
    (t.fault = none ∧ t.waitActive = true ∧ t.hostMove.keys.getLsbD (15 : RegIdx).val = true ∧
      ∀ j : RegIdx, j < 15 → t.hostMove.keys.getLsbD j.val = false) := by decide

theorem test_witness_FaultedCoreHasNoStep :
    { start with fault := some (.outOfBounds 0xFFF 2) }.fault = some (.outOfBounds 0xFFF 2) := by decide

theorem test_witness_UnfaultedCoreAlwaysSteps : start.fault = none := by decide

/-- A jump to itself at the reset address. -/
theorem test_witness_ParkedCoreStaysParked : (start.putBytes 0x200 [0x12, 0x00]).Parked 0x200 := by decide

theorem test_witness_StoreIsSeenByTheNextFetch :
    let s := { start with i := 0xFFE, pc := 0xFFE }
    1 ≤ (1 : RegIdx).val ∧ s.i = s.pc ∧ s.i.toNat + (1 : RegIdx).val + 1 ≤ s.cfg.memSize := by decide

/-- A program that fills Memory to the last byte. -/
theorem test_witness_ResetLeaves :
    Config.Valid { start.cfg with font := customaryFont } ∧
    (List.replicate 3584 (0 : Byte)).length ≤ start.cfg.memSize - start.cfg.progBase :=
  ⟨by decide, by rw [List.length_replicate]; decide⟩

/-- Both clauses: one byte too long, and a font of 79 bytes. -/
theorem test_witness_ResetPreconditions :
    Config.Valid { start.cfg with font := customaryFont } ∧
    start.cfg.memSize - start.cfg.progBase < (List.replicate 3585 (0 : Byte)).length ∧ customaryFont.tail.length ≠ 80 :=
  ⟨by decide, by rw [List.length_replicate]; decide, by decide⟩

theorem test_witness_OffsetJumpAddsV0 : (Instr.jpV0 0xFFF).wellFormed = true := by decide

/-- The last free slot. -/
theorem test_witness_CallPushesTheReturnAddress :
    let s := { start with sp := 30 }
    s.StackShape ∧ s.sp ≠ 2 * s.cfg.stackDepth := by decide

theorem test_witness_CallOnAFullStackFaults :
    let s := { start with sp := 32 }
    s.sp = 2 * s.cfg.stackDepth := by decide

/-- One address held, and a full stack. -/
theorem test_witness_ReturnPopsTheReturnAddress :
    let s := { start with sp := 2 }
    let t := { start with sp := 32 }
    (s.StackShape ∧ s.sp ≠ 0) ∧ (t.StackShape ∧ t.sp ≠ 0) := by decide

theorem test_witness_ReturnOnAnEmptyStackFaults : start.sp = 0 := by decide

theorem test_witness_CallThenReturn : start.StackShape ∧ start.sp ≠ 2 * start.cfg.stackDepth := by decide

/-- The clause for x ≠ 15 and the two branches of the carry. -/
theorem test_witness_AddSetsTheCarry :
    (0 : RegIdx) ≠ 15 ∧ (0xFF : Byte).toNat + (1 : Byte).toNat > 255 ∧ ¬ (0xFF : Byte).toNat + (0 : Byte).toNat > 255 := by
  decide

/-- The clause for x ≠ 15, with and without a borrow (8XY5 and 8XY7). -/
theorem test_witness_SubtractSetsNotBorrow :
    (14 : RegIdx) ≠ 15 ∧ (1 : Byte).toNat < (2 : Byte).toNat ∧ ¬ (2 : Byte).toNat < (2 : Byte).toNat := by decide

/-- The glyph address of the largest byte fits under the default parameters. -/
theorem test_witness_GlyphAddress : start.cfg.fontBase + (0xFF : Byte).toNat * 5 < 65536 := by decide

/-- Both branches of the bounds of FX33, FX55 with x = 15 and FX65 with x = 0. -/
theorem test_witness_block_bounds :
    let s (i : Word) := { start with i := i }
    ((s 0xFFD).i.toNat + 3 ≤ (s 0xFFD).cfg.memSize ∧ ¬ (s 0xFFE).i.toNat + 3 ≤ (s 0xFFE).cfg.memSize) ∧
    ((s 0xFF0).i.toNat + (15 : RegIdx).val + 1 ≤ (s 0xFF0).cfg.memSize ∧
      ¬ (s 0xFF1).i.toNat + (15 : RegIdx).val + 1 ≤ (s 0xFF1).cfg.memSize) ∧
    ((s 0xFFF).i.toNat + (0 : RegIdx).val + 1 ≤ (s 0xFFF).cfg.memSize ∧
      ¬ (s 0x1000).i.toNat + (0 : RegIdx).val + 1 ≤ (s 0x1000).cfg.memSize) := by decide

/-- G10: a sprite of one row in the last byte of Memory; and no row at all, whatever I is. -/
theorem test_witness_DrawInvertsTheCoveredPixels :
    let s := { start with i := 0xFFF }.putBytes 0xFFF [0x80]
    s.cfg.Valid ∧ (Instr.drw 0 1 1).wellFormed = true ∧ ((1 : Nat) = 0 ∨ s.i.toNat + 1 ≤ s.cfg.memSize) ∧
    (Instr.drw 0 1 0).wellFormed = true ∧ ((0 : Nat) = 0 ∨ s.i.toNat + 0 ≤ s.cfg.memSize) := by decide

/-- Both pixel clauses: the sprite byte 0x80 at (64, 32) covers (0, 0), and no bit of it covers (1, 0). -/
theorem test_witness_SpriteCovers :
    SpriteCovers start.cfg 64 32 [0x80] (0, 0) ∧ ¬ SpriteCovers start.cfg 64 32 [0x80] (1, 0) := by
  refine ⟨⟨0, 0, by decide, by decide, by decide, by decide⟩, ?_⟩
  rintro ⟨row, col, hr, hc, hb, hp⟩
  have hr0 : row = 0 := by simpa using hr
  subst hr0
  revert col
  decide

theorem test_witness_DrawPastMemoryFaults :
    let s := { start with i := 0xFFF }
    1 ≤ 2 ∧ s.cfg.memSize < s.i.toNat + 2 := by decide

/-- The drawn state itself is a state between that differs in nothing. -/
theorem test_witness_DrawingTwiceRestores :
    let s := { start with i := 0x300 }.putBytes 0x300 [0xC0]
    ∃ t, s.cfg.Valid ∧ (Instr.drw 0 1 1).wellFormed = true ∧ ((1 : Nat) = 0 ∨ s.i.toNat + 1 ≤ s.cfg.memSize) ∧
      (0 : RegIdx) ≠ 15 ∧ (1 : RegIdx) ≠ 15 ∧ exec (.drw 0 1 1) s = .next t ∧
      Frame [] [.pc, .delay, .sound, .host, .events] t t.advance ∧ t.advance.cfg = t.cfg := by
  refine ⟨_, by decide, by decide, by decide, by decide, by decide, rfl, ?_, rfl⟩
  apply Frame.of_fields <;> simp

/-- Key 15 is asked of the sample; number 16 is not, even with every key down. -/
theorem test_witness_KeySkips :
    let s : State := { start.setReg 3 15 with keys := 0x8000 }
    let t : State := { start.setReg 3 16 with keys := 0xFFFF }
    true = (if (s.reg 3).toNat ≤ 15 then s.keys.getLsbD (s.reg 3).toNat else s.cfg.keyOor) ∧
    false = (if (t.reg 3).toNat ≤ 15 then t.keys.getLsbD (t.reg 3).toNat else t.cfg.keyOor) := by decide

theorem test_witness_FaultingInstructionWritesNothing :
    let s := { start with i := 0xFFF }
    s.fault = none ∧ ∃ t, exec (.ldMemVx 1) s = .next t ∧ t.fault ≠ none := ⟨by decide, _, rfl, by decide⟩

/-- A taken skip, a jump, an offset jump and a return. -/
theorem test_witness_WherePcCanGo :
    (∃ t, exec (.seVxNn 0 0) start = .next t ∧ t.pc = start.pc + 2) ∧
    (∃ t, exec (.jp 0xFFF) start = .next t ∧ t.pc = 0xFFF) ∧
    (∃ t, exec (.jpV0 0xFFF) (start.setReg 0 0xFF) = .next t ∧ t.pc = 0x10FE) ∧
    ∃ t, exec .ret { start with sp := 2 } = .next t ∧ t.pc = 0 :=
  ⟨⟨_, rfl, by decide⟩, ⟨_, rfl, by decide⟩, ⟨_, rfl, by decide⟩, ⟨_, rfl, by decide⟩⟩

/-- A destination register and VF as a flag. -/
theorem test_witness_WhoWritesRegisters :
    (∃ t, exec (.ldVxNn 3 1) start = .next t ∧ t.reg 3 ≠ start.reg 3) ∧
    ∃ t, exec (.subVxVy 3 4) start = .next t ∧ t.reg 15 ≠ start.reg 15 := ⟨⟨_, rfl, by decide⟩, ⟨_, rfl, by decide⟩⟩

/-- 8FYE and another flag writer. -/
theorem test_witness_FlagIsZeroOrOne :
    (writesFlag (.shlVx 15 0) = true ∧ ∃ t, exec (.shlVx 15 0) (start.setReg 15 0xFF) = .next t ∧ t.fault = none) ∧
    (writesFlag (.addIVx 2) = true ∧ ∃ t, exec (.addIVx 2) start = .next t ∧ t.fault = none) :=
  ⟨⟨by decide, _, rfl, by decide⟩, ⟨by decide, _, rfl, by decide⟩⟩

/-- A byte of Memory, a pixel, sp and a byte of STK that do change. -/
theorem test_witness_WhoWritesMemoryScreenAndStack :
    (∃ t, exec (.ldMemVx 0) ({ start with i := 0x300 }.setReg 0 1) = .next t ∧ t.byteAt 0x300 ≠ start.byteAt 0x300) ∧
    (∃ t, exec (.drw 0 1 1) start = .next t ∧ t.pixel (0, 0) ≠ start.pixel (0, 0)) ∧
    ∃ t, exec (.call 0x300) start = .next t ∧ t.sp ≠ start.sp ∧ t.stkRead 0 ≠ start.stkRead 0 :=
  ⟨⟨_, rfl, by decide⟩, ⟨_, rfl, by decide⟩, ⟨_, rfl, by decide, by decide⟩⟩

theorem test_witness_OnlyWaitForKeyEntersAwaitingKey :
    let s := start.putBytes 0x200 [0xF3, 0x0A]
    s.waitActive = false ∧ after (step s) (fun t => (t.waitActive, t.waitReg)) = some (true, 3) := by decide

theorem test_witness_HostAnswersDoNotLeak :
    readsHost (.drw 0 1 5) = false ∧ ∃ t, exec (.drw 0 1 5) start = .next t := ⟨by decide, _, rfl⟩

theorem test_witness_CanonicalFormsAreKept : start.Canonical ∧ after (step start) State.sp = some 0 :=
  ⟨⟨by decide, State.reset_memory_wf, by decide⟩, by decide⟩

theorem test_witness_StackAndIndexBoundsAreKept :
    start.StackShape ∧ start.IndexBound ∧ after (step start) State.sp = some 0 := by decide

theorem test_witness_PcBoundIsKept : start.StackShape ∧ start.PcBound ∧ after (step start) State.sp = some 0 := by
  refine ⟨by decide, ⟨by decide, ?_⟩, by decide⟩
  intro k hk
  have h0 : start.sp = 0 := rfl
  omega

end Sys2Proof.Tests
end

section
/-! PROOFS of the family 10_state.md: which instruction may write which part of the state (R22, R38, R54), and the
invariants of R36. One inversion lemma says what an instruction leaves when it raises no fault; for each part of the
state one lemma says what may become of it; the obligations are read off these. -/

namespace Sys2Proof.Machine

variable {i : Instr} {s t : State}

/-! ### What an instruction leaves when it raises no fault -/

/-- The outcome of an instruction that raises no fault: for the six that have a guard, the guard and the state they
leave; for the others, whatever `exec` answers. -/
def Completes : Instr → State → State → Prop
  | .ret, s, t => s.hasReturn = true ∧ t = (s.setSp (s.sp - 2)).setPc (s.slot (s.sp - 2))
  | .call nnn, s, t => s.hasRoom = true ∧ t = (s.push s.pc).setPc nnn
  | .drw x y n, s, t => inBounds s.cfg s.i.toNat n = true ∧
      t = let d := drawSprite s.cfg (s.reg x) (s.reg y) (Memory.getRange s.cfg s.mem s.i.toNat n) s.fb
        ((s.setFb d.1).setReg vf (flagByte d.2)).signal .displayChanged
  | .ldBVx x, s, t => inBounds s.cfg s.i.toNat 3 = true ∧ t = s.putBytes s.i.toNat (bcdDigits (s.reg x))
  | .ldMemVx x, s, t => inBounds s.cfg s.i.toNat (s.firstRegs x).length = true ∧
      t = s.putBytes s.i.toNat (s.firstRegs x)
  | .ldVxMem x, s, t => inBounds s.cfg s.i.toNat (x.val + 1) = true ∧
      t = s.loadRegs x (Memory.getRange s.cfg s.mem s.i.toNat (x.val + 1))
  | i, s, t => exec i s = .next t

/-- An instruction that answers a next state either raised a fault and did nothing else, or completed. -/
theorem exec_raises_or_completes (h : exec i s = .next t) : (∃ f, t = s.raise f) ∨ Completes i s t := by
  cases i with
  | ret =>
    change execRet s = _ at h; unfold execRet at h
    split at h <;> cases h
    · exact .inr ⟨‹_›, rfl⟩
    · exact .inl ⟨_, rfl⟩
  | call nnn =>
    change execCall nnn s = _ at h; unfold execCall at h
    split at h <;> cases h
    · exact .inr ⟨‹_›, rfl⟩
    · exact .inl ⟨_, rfl⟩
  | drw x y n =>
    change execDrw x y n s = _ at h; unfold execDrw State.memRead at h
    by_cases hb : inBounds s.cfg s.i.toNat n = true <;> simp only [hb] at h <;> cases h
    · exact .inr ⟨hb, rfl⟩
    · exact .inl ⟨_, rfl⟩
  | ldBVx x =>
    change execLdBVx x s = _ at h; unfold execLdBVx State.memWrite at h
    by_cases hb : inBounds s.cfg s.i.toNat (bcdDigits (s.reg x)).length = true <;> simp only [hb] at h <;> cases h
    · exact .inr ⟨hb, rfl⟩
    · exact .inl ⟨_, rfl⟩
  | ldMemVx x =>
    change execLdMemVx x s = _ at h; unfold execLdMemVx State.memWrite at h
    by_cases hb : inBounds s.cfg s.i.toNat (s.firstRegs x).length = true <;> simp only [hb] at h <;> cases h
    · exact .inr ⟨hb, rfl⟩
    · exact .inl ⟨_, rfl⟩
  | ldVxMem x =>
    change execLdVxMem x s = _ at h; unfold execLdVxMem State.memRead at h
    by_cases hb : inBounds s.cfg s.i.toNat (x.val + 1) = true <;> simp only [hb] at h <;> cases h
    · exact .inr ⟨hb, rfl⟩
    · exact .inl ⟨_, rfl⟩
  | _ => exact .inr h

/-! ### What may become of each part of the state -/

/-- FX65 names the registers up to x (R166). -/
theorem mem_destinations_ldVxMem (x r : RegIdx) : r ∈ destinations (.ldVxMem x) ↔ r ≤ x := by
  have hmem : ∀ r : RegIdx, r ∈ keyOrder := by decide
  simp [destinations, hmem r]

/-- R38: a register that is no destination keeps its value, VF unless a flag is written. -/
theorem exec_reg {r : RegIdx} (h : exec i s = .next t) (hd : r ∉ destinations i) (hf : r = 15 → writesFlag i = false) :
    t.reg r = s.reg r := by
  obtain ⟨f, rfl⟩ | h := exec_raises_or_completes h
  · simp
  cases i with
  | ret | call _ | ldBVx _ | ldMemVx _ => obtain ⟨-, rfl⟩ := h; simp
  | drw _ _ _ =>
    obtain ⟨-, rfl⟩ := h
    have hr : r ≠ 15 := fun hr => Bool.noConfusion (hf hr)
    simp [hr]
  | ldVxMem x =>
    obtain ⟨-, rfl⟩ := h
    rw [State.reg_loadRegs, if_neg fun hr => hd ((mem_destinations_ldVxMem x r).2 hr)]
  | _ => cases h; simp_all [destinations, writesFlag]

/-- R54: Memory changes by a write of FX33 or FX55 only. -/
theorem exec_mem (h : exec i s = .next t) :
    t.mem = s.mem ∨ (∃ x, i = .ldBVx x ∨ i = .ldMemVx x) ∧ ∃ a bs, s.memWrite a bs = some t := by
  obtain ⟨f, rfl⟩ | h := exec_raises_or_completes h
  · exact .inl rfl
  cases i with
  | ret | call _ | drw _ _ _ | ldVxMem _ => obtain ⟨-, rfl⟩ := h; simp
  | ldBVx x => obtain ⟨hb, rfl⟩ := h; exact .inr ⟨⟨x, .inl rfl⟩, s.i.toNat, bcdDigits (s.reg x), if_pos hb⟩
  | ldMemVx x => obtain ⟨hb, rfl⟩ := h; exact .inr ⟨⟨x, .inr rfl⟩, s.i.toNat, s.firstRegs x, if_pos hb⟩
  | _ => cases h; simp

/-- R38: the framebuffer is cleared by 00E0 and blitted to by DXYN; nothing else changes it. -/
theorem exec_fb (h : exec i s = .next t) :
    t.fb = s.fb ∨ (i = .cls ∧ t.fb = []) ∨
      (∃ x y n, i = .drw x y n) ∧ ∃ vx vy bs, t.fb = (drawSprite s.cfg vx vy bs s.fb).1 := by
  obtain ⟨f, rfl⟩ | h := exec_raises_or_completes h
  · exact .inl rfl
  cases i with
  | cls => cases h; exact .inr (.inl ⟨rfl, rfl⟩)
  | drw x y n => obtain ⟨-, rfl⟩ := h; exact .inr (.inr ⟨⟨x, y, n, rfl⟩, _, _, _, rfl⟩)
  | ret | call _ | ldBVx _ | ldMemVx _ | ldVxMem _ => obtain ⟨-, rfl⟩ := h; simp
  | _ => cases h; simp

/-- R38: I takes the address of ANNN, the sum of FX1E or the glyph address of FX29; nothing else changes it. -/
theorem exec_index (h : exec i s = .next t) :
    t.i = s.i ∨ i = .ldINnn t.i ∨ (∃ a, t.i = indexAdd s.i a) ∨ ∃ a, t.i = glyphIndex s.cfg a := by
  obtain ⟨f, rfl⟩ | h := exec_raises_or_completes h
  · exact .inl rfl
  cases i with
  | ldINnn nnn => cases h; exact .inr (.inl rfl)
  | addIVx x => cases h; exact .inr (.inr (.inl ⟨_, rfl⟩))
  | ldFVx x => cases h; exact .inr (.inr (.inr ⟨_, rfl⟩))
  | ret | call _ | drw _ _ _ | ldBVx _ | ldMemVx _ | ldVxMem _ => obtain ⟨-, rfl⟩ := h; simp
  | _ => cases h; simp

/-- R129: a skip leaves pc at the next instruction or moves it by 2. -/
theorem State.skipIf_pc_cases (s : State) (c : Bool) : (s.skipIf c).pc = s.pc ∨ (s.skipIf c).pc = s.pc + 2 := by
  cases c <;> simp

/-- R120 to R130: 00EE pops and 2NNN pushes the advanced pc; outside them the stack stays, and pc is the advanced one,
the one after a skip, or the target of a jump. -/
theorem exec_stack_pc (h : exec i s = .next t) :
    (t.sp = s.sp ∧ t.stk = s.stk ∧
      (t.pc = s.pc ∨ t.pc = s.pc + 2 ∨ i = .jp t.pc ∨ ∃ nnn, i = .jpV0 nnn ∧ t.pc = offsetTarget nnn (s.reg 0))) ∨
    (i = .ret ∧ 2 ≤ s.sp ∧ t = (s.setSp (s.sp - 2)).setPc (s.slot (s.sp - 2))) ∨
    ∃ nnn, i = .call nnn ∧ s.sp + 2 ≤ 2 * s.cfg.stackDepth ∧ t = (s.push s.pc).setPc nnn := by
  obtain ⟨f, rfl⟩ | h := exec_raises_or_completes h
  · exact .inl ⟨rfl, rfl, .inl rfl⟩
  cases i with
  | ret => exact .inr (.inl ⟨rfl, s.hasReturn_iff.1 h.1, h.2⟩)
  | call nnn => exact .inr (.inr ⟨nnn, rfl, s.hasRoom_iff.1 h.1, h.2⟩)
  | drw _ _ _ | ldBVx _ | ldMemVx _ | ldVxMem _ => obtain ⟨-, rfl⟩ := h; simp
  | seVxNn _ _ | sneVxNn _ _ | seVxVy _ _ | sneVxVy _ _ | skpVx _ | sknpVx _ =>
    cases h; exact .inl ⟨rfl, rfl, (s.skipIf_pc_cases _).imp_right .inl⟩
  | _ => cases h; simp

/-- The stack store reads the same, or 2NNN ran. -/
theorem exec_stkRead (h : exec i s = .next t) : (∀ o, t.stkRead o = s.stkRead o) ∨ ∃ nnn, i = .call nnn := by
  obtain ⟨-, hstk, -⟩ | ⟨-, -, rfl⟩ | ⟨nnn, hi, -⟩ := exec_stack_pc h
  · exact .inl (State.stkRead_congr hstk)
  · exact .inl fun _ => rfl
  · exact .inr ⟨nnn, hi⟩

/-- No instruction changes the parameters (00_scope.md R7). -/
theorem exec_cfg (h : exec i s = .next t) : t.cfg = s.cfg := (exec_cases h).1.1

/-! ### Who writes what (R22, R38, R54) -/

/-- Settles O53: a register that is neither a destination nor VF under a flag writer keeps its value. -/
theorem whoWritesRegisters : Obligations.WhoWritesRegisters := by
  intro i s t r h hne
  by_contra hn
  rw [not_or] at hn
  refine hne (exec_reg h hn.1 fun hr => ?_)
  simpa [hr] using hn.2

/-- Settles O55: each clause is the lemma about that part of the state. -/
theorem whoWritesMemoryScreenAndStack : Obligations.WhoWritesMemoryScreenAndStack := by
  refine fun i s t h => ⟨?_, ?_, ?_, ?_⟩
  · rintro ⟨a, ha⟩
    obtain hm | ⟨hi, -⟩ := exec_mem h
    · exact absurd (State.byteAt_congr (exec_cfg h) hm a) ha
    · exact hi
  · rintro ⟨p, hp⟩
    obtain hfb | ⟨hi, -⟩ | ⟨hi, -⟩ := exec_fb h
    · exact absurd (by rw [State.pixel, State.pixel, hfb]) hp
    · exact .inl hi
    · exact .inr hi
  · intro hsp
    obtain ⟨h1, -⟩ | ⟨hi, -⟩ | ⟨nnn, hi, -⟩ := exec_stack_pc h
    · exact absurd h1 hsp
    · exact .inl hi
    · exact .inr ⟨nnn, hi⟩
  · rintro ⟨o, ho⟩
    exact (exec_stkRead h).resolve_left fun hs => ho (hs o)

/-- A flag is 0 or 1 (R22). -/
theorem flagByte_zero_or_one (b : Bool) : (flagByte b).toNat = 0 ∨ (flagByte b).toNat = 1 := by
  cases b
  · exact .inl rfl
  · exact .inr rfl

/-- R149: VF after 8XY6; for x = 15 it is the shifted flag, which is 0. -/
theorem execShrVx_flag (x y : RegIdx) (h : exec (.shrVx x y) s = .next t) :
    (t.reg 15).toNat = 0 ∨ (t.reg 15).toNat = 1 := by
  cases h
  by_cases hx : x = 15
  · subst hx; simp [shrByte_toNat, shrOut_toNat]
  · simp [Ne.symm hx, shrOut_toNat]; omega

/-- R151: VF after 8XYE with another register than VF is the bit shifted out. -/
theorem execShlVx_flag {x : RegIdx} (y : RegIdx) (hx : x ≠ 15) (h : exec (.shlVx x y) s = .next t) :
    (t.reg 15).toNat = 0 ∨ (t.reg 15).toNat = 1 := by
  have := (s.reg x).isLt
  cases h
  simp [hx.symm, shlOut_toNat]; omega

/-- R151, D12: 8FYE shifts the flag it has just written. -/
theorem execShlVx_flag_vf (y : RegIdx) (h : exec (.shlVx 15 y) s = .next t) :
    (t.reg 15).toNat = 0 ∨ (t.reg 15).toNat = 2 := by
  have := (s.reg 15).isLt
  cases h
  simp [shlByte_toNat, shlOut_toNat]; omega

/-- Settles O54, by the flag writer: six end by writing a flag to VF, the two shifts write theirs first. -/
theorem flagIsZeroOrOne : Obligations.FlagIsZeroOrOne := by
  intro i s t hw hs h ht
  obtain ⟨f, rfl⟩ | hc := exec_raises_or_completes h
  · cases ht
  cases i with
  | addVxVy _ _ | subVxVy _ _ | subnVxVy _ _ | addIVx _ =>
    cases hc; exact .inr ⟨nofun, by rw [State.reg_setReg, if_pos rfl]; exact flagByte_zero_or_one _⟩
  | drw _ _ _ =>
    obtain ⟨-, rfl⟩ := hc
    exact .inr ⟨nofun, by rw [State.reg_signal, State.reg_setReg, if_pos rfl]; exact flagByte_zero_or_one _⟩
  | shrVx x y => exact .inr ⟨nofun, execShrVx_flag x y h⟩
  | shlVx x y =>
    by_cases hx : x = 15
    · subst hx; exact .inl ⟨⟨y, rfl⟩, execShlVx_flag_vf y h⟩
    · exact .inr ⟨fun _ hi => hx (Instr.shlVx.inj hi).1, execShlVx_flag y hx h⟩
  | _ => cases hw

/-! ### The keys and the random byte (R38, R207, R153) -/

/-- The state with another key sample and another random byte. -/
def State.withAnswers (s : State) (keys : BitVec 16) (draw : Byte) : State := { s with keys := keys, draw := draw }

@[simp] theorem State.withAnswers_i (s : State) (keys : BitVec 16) (draw : Byte) :
    (s.withAnswers keys draw).i = s.i := rfl
@[simp] theorem State.reg_withAnswers (s : State) (keys : BitVec 16) (draw : Byte) (r : RegIdx) :
    (s.withAnswers keys draw).reg r = s.reg r := rfl
@[simp] theorem State.firstRegs_withAnswers (s : State) (keys : BitVec 16) (draw : Byte) (x : RegIdx) :
    (s.withAnswers keys draw).firstRegs x = s.firstRegs x := rfl
@[simp] theorem State.memRead_withAnswers (s : State) (keys : BitVec 16) (draw : Byte) (a n : Nat) :
    (s.withAnswers keys draw).memRead a n = s.memRead a n := rfl

/-- A jump does not look at the host's answers. -/
theorem State.jump_withAnswers (s : State) (keys : BitVec 16) (draw : Byte) (a : Word) :
    (s.withAnswers keys draw).jump a = (s.jump a).withAnswers keys draw :=
  (apply_ite (State.withAnswers · keys draw) (a = s.fetchAddr) ((s.setPc a).signal .haltRecommended) (s.setPc a)).symm

/-- A write to Memory does not look at the host's answers. -/
theorem State.memWrite_withAnswers (s : State) (keys : BitVec 16) (draw : Byte) (a : Nat) (bs : List Byte) :
    (s.withAnswers keys draw).memWrite a bs = (s.memWrite a bs).map (·.withAnswers keys draw) :=
  (apply_ite (Option.map (State.withAnswers · keys draw)) (inBounds s.cfg a bs.length = true)
    (some (s.putBytes a bs)) none).symm

/-- Settles O57: no other instruction looks at the answers, so they ride along through every branch. -/
theorem hostAnswersDoNotLeak : Obligations.HostAnswersDoNotLeak := by
  intro i s t keys draw hi h
  show exec i (s.withAnswers keys draw) = .next (t.withAnswers keys draw)
  cases i with
  | jp nnn => cases h; exact congrArg _ (s.jump_withAnswers keys draw nnn)
  | jpV0 nnn => cases h; exact congrArg _ (s.jump_withAnswers keys draw _)
  | ret =>
    change execRet s = _ at h; unfold execRet at h
    split at h <;> cases h
    · exact if_pos ‹_›
    · exact if_neg ‹_›
  | call nnn =>
    change execCall nnn s = _ at h; unfold execCall at h
    split at h <;> cases h
    · exact if_pos ‹_›
    · exact if_neg ‹_›
  | drw x y n =>
    change execDrw x y n s = _ at h; change execDrw x y n _ = _; unfold execDrw at h ⊢
    rw [State.memRead_withAnswers, State.withAnswers_i]
    cases hr : s.memRead s.i.toNat n <;> rw [hr] at h <;> cases h <;> rfl
  | ldVxMem x =>
    change execLdVxMem x s = _ at h; change execLdVxMem x _ = _; unfold execLdVxMem at h ⊢
    rw [State.memRead_withAnswers, State.withAnswers_i]
    cases hr : s.memRead s.i.toNat (x.val + 1) <;> rw [hr] at h <;> cases h <;> rfl
  | ldBVx x =>
    change execLdBVx x s = _ at h; change execLdBVx x _ = _; unfold execLdBVx at h ⊢
    rw [State.memWrite_withAnswers, State.withAnswers_i, State.reg_withAnswers]
    cases hr : s.memWrite s.i.toNat (bcdDigits (s.reg x)) <;> rw [hr] at h <;> cases h <;> rfl
  | ldMemVx x =>
    change execLdMemVx x s = _ at h; change execLdMemVx x _ = _; unfold execLdMemVx at h ⊢
    rw [State.memWrite_withAnswers, State.withAnswers_i, State.firstRegs_withAnswers]
    cases hr : s.memWrite s.i.toNat (s.firstRegs x) <;> rw [hr] at h <;> cases h <;> rfl
  | rndVxNn _ _ | skpVx _ | sknpVx _ => cases hi
  | _ => cases h; rfl

/-! ### The addresses a decoded instruction carries (30_encoding.md R82) -/

theorem fitsNnn_iff (nnn : Word) : fitsNnn nnn = true ↔ nnn.toNat ≤ 0xFFF := by simp [fitsNnn]

theorem fieldNnn_fits (w : Word) : fitsNnn (fieldNnn w) = true := by
  rw [fitsNnn_iff, fieldNnn_toNat]; omega

/-- One arm of a decoder's chain of tests. -/
theorem wellFormed_of_ite {c : Prop} [Decidable c] {j : Instr} {o : Option Instr} (hj : j.wellFormed = true)
    (ho : ∀ i, o = some i → i.wellFormed = true) : ∀ i, (if c then some j else o) = some i → i.wellFormed = true := by
  intro i h
  split at h
  · cases h; exact hj
  · exact ho i h

theorem decodeZero_wellFormed (w : Word) : ∀ i, decodeZero w = some i → i.wellFormed = true := by
  unfold decodeZero
  iterate 2 refine wellFormed_of_ite rfl ?_
  exact nofun

theorem decodeAlu_wellFormed (w : Word) : ∀ i, decodeAlu w = some i → i.wellFormed = true := by
  unfold decodeAlu
  iterate 9 refine wellFormed_of_ite rfl ?_
  exact nofun

theorem decodeKey_wellFormed (w : Word) : ∀ i, decodeKey w = some i → i.wellFormed = true := by
  unfold decodeKey
  iterate 2 refine wellFormed_of_ite rfl ?_
  exact nofun

theorem decodeMisc_wellFormed (w : Word) : ∀ i, decodeMisc w = some i → i.wellFormed = true := by
  unfold decodeMisc
  iterate 9 refine wellFormed_of_ite rfl ?_
  exact nofun

/-- Every field of a decoded instruction fits its bits. -/
theorem decodeWord_wellFormed {w : Word} (h : decodeWord w = some i) : i.wellFormed = true := by
  have hn : fitsN (fieldN w).toNat = true := by simp [fitsN, fieldN_toNat]; omega
  unfold decodeWord at h
  split at h
  · exact decodeZero_wellFormed w i h
  · cases h; exact fieldNnn_fits w
  · cases h; exact fieldNnn_fits w
  · cases h; rfl
  · cases h; rfl
  · exact wellFormed_of_ite (o := none) rfl nofun i h
  · cases h; rfl
  · cases h; rfl
  · exact decodeAlu_wellFormed w i h
  · exact wellFormed_of_ite (o := none) rfl nofun i h
  · cases h; exact fieldNnn_fits w
  · cases h; exact fieldNnn_fits w
  · cases h; rfl
  · cases h; exact hn
  · exact decodeKey_wellFormed w i h
  · exact decodeMisc_wellFormed w i h
  · cases h

/-! ### Invariants of every step (R36) -/

/-- R101: a poll takes the lowest key into the waiting register and wakes, or changes nothing. -/
theorem State.pollKeys_cases (s : State) :
    s.pollKeys = s ∨ ∃ k : RegIdx, s.pollKeys = (s.setReg s.waitReg (BitVec.ofNat 8 k.val)).wake := by
  unfold State.pollKeys
  split
  · exact .inr ⟨_, rfl⟩
  · exact .inl rfl

/-- A predicate on the parameters, Memory, the framebuffer, I and the stack that every well-formed instruction keeps
is kept by every step: the host's move, the key poll, the advance and a fault of the fetch touch none of these. -/
theorem step_preserves {P : State → Prop}
    (hcongr : ∀ s t : State, t.cfg = s.cfg → t.mem = s.mem → t.fb = s.fb → t.i = s.i → t.sp = s.sp → t.stk = s.stk →
      P s → P t)
    (hexec : ∀ (i : Instr) (s t : State), i.wellFormed = true → exec i s = .next t → P s → P t)
    (h : step s = .next t) (hs : P s) : P t := by
  obtain ⟨-, ⟨-, rfl⟩ | ⟨-, -, i, hi, hex⟩ | ⟨-, -, -, rfl⟩ | ⟨-, -, rfl⟩⟩ := step_cases h
  · obtain hp | ⟨k, hp⟩ := s.hostMove.pollKeys_cases <;> rw [hp] <;>
      refine hcongr s _ ?_ ?_ ?_ ?_ ?_ ?_ hs <;> simp
  · refine hexec i _ t (decodeWord_wellFormed hi) hex (hcongr s _ ?_ ?_ ?_ ?_ ?_ ?_ hs) <;> simp
  · refine hcongr s _ ?_ ?_ ?_ ?_ ?_ ?_ hs <;> simp
  · refine hcongr s _ ?_ ?_ ?_ ?_ ?_ ?_ hs <;> simp

/-- Every instruction keeps Memory and the framebuffer in canonical form. -/
theorem exec_canonical (h : exec i s = .next t) (hs : s.Canonical) : t.Canonical := by
  obtain ⟨hv, hm, hfb⟩ := hs
  refine ⟨exec_cfg h ▸ hv, ?_, ?_⟩
  · obtain hmem | ⟨-, a, bs, hw⟩ := exec_mem h
    · rw [exec_cfg h, hmem]; exact hm
    · exact State.memWrite_wf hw hm
  · rw [exec_cfg h]
    obtain hf | ⟨-, hf⟩ | ⟨-, vx, vy, bs, hf⟩ := exec_fb h <;> rw [hf]
    · exact hfb
    · exact ⟨.nil, nofun⟩
    · exact drawSprite_wf s.cfg vx vy bs s.fb (by omega) (by omega) hfb

/-- Settles O58, with the parameters as part of the predicate kept. -/
theorem canonicalFormsAreKept : Obligations.CanonicalFormsAreKept := by
  intro s t hs h
  refine step_preserves (P := fun u => u.Canonical ∧ u.cfg = s.cfg) ?_ ?_ h ⟨hs, rfl⟩
  · intro u v hc hm hf _ _ _ hu
    rw [State.Canonical, hc, hm, hf]; exact hu
  · intro i u v _ hex hu
    exact ⟨exec_canonical hex hu.1, (exec_cfg hex).trans hu.2⟩

/-- R162: FX1E leaves at most 0xFFF in I, from any I. -/
theorem indexAdd_le (w : Word) (a : Byte) : (indexAdd w a).toNat ≤ 0xFFF := by
  rw [indexAdd_toNat]; split <;> omega

/-- R163: FX29 leaves at most FONT_BASE + 1275 in I: the sum where it fits 16 bits, and a 16-bit value below the sum
where it does not. -/
theorem glyphIndex_le (c : Config) (a : Byte) : (glyphIndex c a).toNat ≤ c.fontBase + 1275 := by
  have ha := a.isLt
  have hg := (glyphIndex c a).isLt
  by_cases hfit : c.fontBase + a.toNat * 5 < 65536
  · rw [glyphIndex_toNat c a hfit]; omega
  · omega

/-- Every well-formed instruction keeps I inside its bound. -/
theorem exec_indexBound (hw : i.wellFormed = true) (h : exec i s = .next t) (hs : s.IndexBound) : t.IndexBound := by
  rw [State.IndexBound, exec_cfg h]
  obtain hi | rfl | ⟨a, hi⟩ | ⟨a, hi⟩ := exec_index h
  · rw [hi]; exact hs
  · exact le_max_of_le_left ((fitsNnn_iff _).1 hw)
  · rw [hi]; exact le_max_of_le_left (indexAdd_le _ _)
  · rw [hi]; exact le_max_of_le_right (glyphIndex_le _ _)

/-- Every instruction keeps sp even and in range, and the size of STK. -/
theorem exec_stackShape (h : exec i s = .next t) (hs : s.StackShape) : t.StackShape := by
  obtain ⟨heven, hle, hlen⟩ := hs
  obtain ⟨hsp, hstk, -⟩ | ⟨-, hret, rfl⟩ | ⟨nnn, -, hroom, rfl⟩ := exec_stack_pc h
  · rw [State.StackShape, exec_cfg h, hsp, hstk]; exact ⟨heven, hle, hlen⟩
  · refine ⟨?_, ?_, hlen⟩ <;> simp <;> omega
  · refine ⟨?_, ?_, ?_⟩ <;> simp <;> omega

/-- Settles O59. -/
theorem stackAndIndexBoundsAreKept : Obligations.StackAndIndexBoundsAreKept := by
  intro s t hs hi h
  refine step_preserves (P := fun u => u.StackShape ∧ u.IndexBound) ?_ ?_ h ⟨hs, hi⟩
  · intro u v hc _ _ hI hsp hstk hu
    rw [State.StackShape, State.IndexBound, hc, hI, hsp, hstk]; exact hu
  · intro i u v hw hex hu
    exact ⟨exec_stackShape hex hu.1, exec_indexBound hw hex hu.2⟩

/-- Advancing by 2 modulo 2^16 never goes further than 2 (R103). -/
theorem toNat_add_two_le (w : Word) : (w + 2).toNat ≤ w.toNat + 2 := by
  rw [BitVec.toNat_add]; exact Nat.mod_le _ _

/-- An instruction run with the advanced pc at most MEM_SIZE leaves pc in its bound: past a skip, at the target of a
jump or a call, or at a return address (R121 to R124, R129). -/
theorem exec_pc_le (hw : i.wellFormed = true) (h : exec i s = .next t) (heven : s.sp % 2 = 0)
    (hpc : s.pc.toNat ≤ s.cfg.memSize) (hret : ∀ k, 2 * k + 2 ≤ s.sp → (s.slot (2 * k)).toNat ≤ s.cfg.memSize) :
    t.pc.toNat ≤ max 0x10FE (t.cfg.memSize + 2) := by
  rw [exec_cfg h]
  obtain ⟨-, -, hp | hp | rfl | ⟨nnn, rfl, hp⟩⟩ | ⟨-, hsp, rfl⟩ | ⟨nnn, rfl, -, rfl⟩ := exec_stack_pc h
  · rw [hp]; omega
  · have := toNat_add_two_le s.pc
    rw [hp]; omega
  · have := (fitsNnn_iff t.pc).1 hw
    omega
  · have hnnn := (fitsNnn_iff nnn).1 hw
    have := (s.reg 0).isLt
    rw [hp, offsetTarget_toNat nnn _ hnnn]; omega
  · have htop := hret (s.sp / 2 - 1) (by omega)
    rw [show 2 * (s.sp / 2 - 1) = s.sp - 2 by omega] at htop
    rw [State.setPc_pc]; omega
  · have := (fitsNnn_iff nnn).1 hw
    rw [State.setPc_pc]; omega

/-- Every instruction keeps the return addresses held at most MEM_SIZE: the one 2NNN pushes is the advanced pc (R123),
and 00EE holds fewer of them. -/
theorem exec_slot_le (h : exec i s = .next t) (hs : s.StackShape) (hpc : s.pc.toNat ≤ s.cfg.memSize)
    (hret : ∀ k, 2 * k + 2 ≤ s.sp → (s.slot (2 * k)).toNat ≤ s.cfg.memSize) (k : Nat) (hk : 2 * k + 2 ≤ t.sp) :
    (t.slot (2 * k)).toNat ≤ t.cfg.memSize := by
  obtain ⟨heven, hle, hlen⟩ := hs
  obtain ⟨hsp, hstk, -⟩ | ⟨-, -, rfl⟩ | ⟨nnn, -, hroom, rfl⟩ := exec_stack_pc h
  · rw [exec_cfg h, State.slot, State.stkRead_congr hstk, State.stkRead_congr hstk]
    exact hret k (hsp ▸ hk)
  · exact hret k (hk.trans (Nat.sub_le _ _))
  · show ((s.push s.pc).slot (2 * k)).toNat ≤ s.cfg.memSize
    change 2 * k + 2 ≤ s.sp + 2 at hk
    by_cases hk2 : 2 * k = s.sp
    · rw [hk2, State.slot_push_self s _ (by omega)]; exact hpc
    · rw [State.slot_push_below s _ _ (by omega) (by omega)]; exact hret k (by omega)

/-- Settles O60: a fetch that passes its bounds check advances pc to at most MEM_SIZE. -/
theorem pcBoundIsKept : Obligations.PcBoundIsKept := by
  intro s t hs hb h
  have hadv := toNat_add_two_le s.pc
  obtain ⟨-, ⟨-, rfl⟩ | ⟨-, hin, i, hi, hex⟩ | ⟨-, hin, -, rfl⟩ | ⟨-, -, rfl⟩⟩ := step_cases h
  · obtain hp | ⟨k, hp⟩ := s.hostMove.pollKeys_cases <;> rw [hp] <;> exact hb
  · have hpc : s.hostMove.advance.pc.toNat ≤ s.hostMove.advance.cfg.memSize := hadv.trans hin
    exact ⟨exec_pc_le (decodeWord_wellFormed hi) hex hs.1 hpc hb.2, exec_slot_le hex hs hpc hb.2⟩
  · exact ⟨le_max_of_le_right (by show (s.pc + 2).toNat ≤ s.cfg.memSize + 2; omega), hb.2⟩
  · exact hb

/-! ### The reset state (R37, R250) -/

/-- R250: with a font of 80 bytes, valid parameters and a program that fits, Reset succeeds. -/
theorem State.resetEvent_eq_next {font program : List Byte} (hfont : font.length = 80)
    (hvalid : Config.Valid { s.cfg with font := font }) (hfits : s.cfg.progBase + program.length ≤ s.cfg.memSize) :
    s.resetEvent font program = .next (s.afterReset font program) := by
  rw [State.resetEvent, if_neg (not_not_intro hfont), if_neg (not_not_intro hvalid), if_neg (by omega)]

/-- The default parameters meet the constraints of R7. -/
theorem defaultConfig_valid : defaultConfig.Valid := by decide

/-- Settles O18. The stack is empty after Reset, so it holds no return address. -/
theorem stateResetIsAResetState : Obligations.StateResetIsAResetState := by
  refine ⟨?_, ⟨defaultConfig_valid, State.reset_memory_wf, .nil, nofun⟩, by decide, by decide, by decide, ?_⟩
  · exact State.resetEvent_eq_next rfl defaultConfig_valid (by decide)
  · intro k hk
    exact absurd hk (by simp [State.reset])

end Sys2Proof.Machine
end

section
/-! PROOFS of the family 20_memory.md: a store into the code is seen by the fetch that follows (R64, R66). -/

namespace Sys2Proof.Machine

/-- R165, R58: FX55 whose x + 1 bytes are in bounds writes them at I, and does nothing else. -/
theorem exec_ldMemVx_of_inBounds {x : RegIdx} {s : State} (h : s.i.toNat + x.val + 1 ≤ s.cfg.memSize) :
    exec (.ldMemVx x) s = .next (s.putBytes s.i.toNat (s.firstRegs x)) := by
  have hin : s.i.toNat + (s.firstRegs x).length ≤ s.cfg.memSize := by
    rw [State.firstRegs_length]; exact h
  change execLdMemVx x s = _
  rw [execLdMemVx, State.memWrite_eq, if_pos (.inr hin)]

/-- R165: after V[0] to V[x] are written at a, the byte at a + k is V[k]. -/
theorem State.byteAt_putBytes_firstRegs (s : State) (a : Nat) {x k : RegIdx} (h : k ≤ x) :
    (s.putBytes a (s.firstRegs x)).byteAt (a + k.val) = s.reg k := by
  have hspan : a ≤ a + k.val ∧ a + k.val < a + (s.firstRegs x).length := by
    have hk : k.val ≤ x.val := h
    rw [State.firstRegs_length]; omega
  rw [State.byteAt_putBytes, if_pos hspan, Nat.add_sub_cancel_left, State.firstRegs_getD s x k h]

/-- Settles O15: FX55 keeps pc, so the next fetch reads the bytes just written at I and I + 1 (R66). -/
theorem storeIsSeenByTheNextFetch : Obligations.StoreIsSeenByTheNextFetch := by
  intro s x hx hpc hfits
  have hhi := s.byteAt_putBytes_firstRegs s.pc.toNat (Fin.zero_le x)
  have hlo := s.byteAt_putBytes_firstRegs s.pc.toNat (show (1 : RegIdx) ≤ x from hx)
  refine ⟨_, exec_ldMemVx_of_inBounds hfits, ?_⟩
  rw [State.fetchWord, State.putBytes_pc, hpc]
  exact congrArg₂ be16 hhi hlo

end Sys2Proof.Machine
end

section
/-! PROOFS of the family 30_encoding.md: an instruction is one word and its fields (R82), and the decoder and the
opcode map of R86 read every word alike (R83). For each format, lemmas join a word to its fields, one way (O2) and back
(O3); three more say which fields a row's mask fixes (O4), and O9 reads off that a word no row fits does not decode. -/

namespace Sys2Proof

variable {w : Word} {i : Instr} {op n : Nat} {nnn : Word} {x y : RegIdx} {nn : Byte}

/-! ### The fields of a packed word (R82) -/

theorem fieldOp_packNnn (h : op < 16) : (fieldOp (packNnn op nnn)).toNat = op := by
  rw [fieldOp_toNat, packNnn_toNat op nnn h]; omega

theorem fieldNnn_packNnn (h : op < 16) (hn : fitsNnn nnn = true) : fieldNnn (packNnn op nnn) = nnn := by
  have := (Machine.fitsNnn_iff nnn).1 hn
  apply BitVec.eq_of_toNat_eq
  rw [fieldNnn_toNat, packNnn_toNat op nnn h]; omega

theorem fieldOp_packXNn (h : op < 16) : (fieldOp (packXNn op x nn)).toNat = op := by
  have := nn.isLt
  rw [fieldOp_toNat, packXNn_toNat op x nn h]; omega

theorem fieldX_packXNn (h : op < 16) : fieldX (packXNn op x nn) = x := by
  have := nn.isLt
  apply Fin.ext
  rw [fieldX_val, packXNn_toNat op x nn h]; omega

theorem fieldNn_packXNn (h : op < 16) : fieldNn (packXNn op x nn) = nn := by
  have := nn.isLt
  apply BitVec.eq_of_toNat_eq
  rw [fieldNn_toNat, packXNn_toNat op x nn h]; omega

theorem fieldOp_packXYN (h : op < 16) : (fieldOp (packXYN op x y n)).toNat = op := by
  rw [fieldOp_toNat, packXYN_toNat op x y n h]; omega

theorem fieldX_packXYN (h : op < 16) : fieldX (packXYN op x y n) = x := by
  apply Fin.ext
  rw [fieldX_val, packXYN_toNat op x y n h]; omega

theorem fieldY_packXYN (h : op < 16) : fieldY (packXYN op x y n) = y := by
  apply Fin.ext
  rw [fieldY_val, packXYN_toNat op x y n h]; omega

theorem fieldN_packXYN (h : op < 16) : fieldN (packXYN op x y n) = BitVec.ofNat 4 n := by
  apply BitVec.eq_of_toNat_eq
  rw [fieldN_toNat, packXYN_toNat op x y n h, BitVec.toNat_ofNat]; omega

/-! ### A word packed again from its fields -/

theorem packNnn_fields (hop : (fieldOp w).toNat = op) : packNnn op (fieldNnn w) = w := by
  have hlt := (fieldOp w).isLt
  rw [fieldOp_toNat] at hop hlt
  apply BitVec.eq_of_toNat_eq
  rw [packNnn_toNat op _ (by omega), fieldNnn_toNat]; omega

theorem packXNn_fields (hop : (fieldOp w).toNat = op) (hnn : fieldNn w = nn) : packXNn op (fieldX w) nn = w := by
  have hlt := (fieldOp w).isLt
  rw [fieldOp_toNat] at hop hlt
  apply BitVec.eq_of_toNat_eq
  rw [packXNn_toNat op _ nn (by omega), fieldX_val, ← hnn, fieldNn_toNat]; omega

theorem packXYN_fields (hop : (fieldOp w).toNat = op) (hn : fieldN w = BitVec.ofNat 4 n) :
    packXYN op (fieldX w) (fieldY w) n = w := by
  have hlt := (fieldOp w).isLt
  have hn := congrArg BitVec.toNat hn
  rw [fieldOp_toNat] at hop hlt
  rw [fieldN_toNat, BitVec.toNat_ofNat] at hn
  apply BitVec.eq_of_toNat_eq
  rw [packXYN_toNat op _ _ n (by omega), fieldX_val, fieldY_val]; omega

/-! ### Decoding an encoded instruction -/

/-- The decoder gives back every field an encoding holds, format by format. -/
theorem decodeWord_encodeWord (hw : i.wellFormed = true) : decodeWord (encodeWord i) = some i := by
  cases i with
  | cls | ret => rfl
  | jp _ | call _ | ldINnn _ | jpV0 _ =>
    simp [encodeWord, decodeWord, fieldOp_packNnn, fieldNnn_packNnn (hn := hw)]
  | seVxNn _ _ | sneVxNn _ _ | ldVxNn _ _ | addVxNn _ _ | rndVxNn _ _ =>
    simp [encodeWord, decodeWord, fieldOp_packXNn, fieldX_packXNn, fieldNn_packXNn]
  | seVxVy _ _ | sneVxVy _ _ =>
    simp [encodeWord, decodeWord, fieldOp_packXYN, fieldX_packXYN, fieldY_packXYN, fieldN_packXYN]
  | ldVxVy _ _ | orVxVy _ _ | andVxVy _ _ | xorVxVy _ _ | addVxVy _ _ | subVxVy _ _ | shrVx _ _ | subnVxVy _ _
  | shlVx _ _ =>
    simp [encodeWord, decodeWord, decodeAlu, fieldOp_packXYN, fieldX_packXYN, fieldY_packXYN, fieldN_packXYN]
  | drw _ _ n =>
    have hn : n % 16 = n := Nat.mod_eq_of_lt (Nat.lt_succ_of_le (of_decide_eq_true hw))
    simp [encodeWord, decodeWord, fieldOp_packXYN, fieldX_packXYN, fieldY_packXYN, fieldN_packXYN, hn]
  | skpVx _ | sknpVx _ =>
    simp [encodeWord, decodeWord, decodeKey, fieldOp_packXNn, fieldX_packXNn, fieldNn_packXNn]
  | ldVxDt _ | ldVxK _ | ldDtVx _ | ldStVx _ | addIVx _ | ldFVx _ | ldBVx _ | ldMemVx _ | ldVxMem _ =>
    simp [encodeWord, decodeWord, decodeMisc, fieldOp_packXNn, fieldX_packXNn, fieldNn_packXNn]

/-- The byte decoder takes two bytes and leaves what follows (R80). -/
theorem decode_cons_cons {hi lo : Byte} (rest : List Byte) (h : decodeWord (be16 hi lo) = some i) :
    decode (hi :: lo :: rest) = .ok (i, rest) := by
  rw [decode, h]

/-- Settles O2: the two bytes make the encoded word again, and its fields are the instruction's. -/
theorem encodeThenDecode : Obligations.EncodeThenDecode := by
  intro i rest hw
  refine decode_cons_cons rest ?_
  rw [be16_hiByte_loByte, decodeWord_encodeWord hw]

/-! ### Encoding a decoded word -/

/-- One arm of a decoder's chain of tests: what the arm answers may use its test. -/
theorem forall_decoded_of_ite {P : Instr → Prop} {c : Prop} [Decidable c] {j : Instr} {o : Option Instr}
    (hj : c → P j) (ho : ∀ i, o = some i → P i) : ∀ i, (if c then some j else o) = some i → P i := by
  intro i h
  split at h
  · cases h; exact hj ‹_›
  · exact ho i h

theorem encodeWord_decodeZero : ∀ i, decodeZero w = some i → encodeWord i = w := by
  unfold decodeZero
  iterate 2 refine forall_decoded_of_ite Eq.symm ?_
  exact nofun

theorem encodeWord_decodeAlu (hop : (fieldOp w).toNat = 0x8) : ∀ i, decodeAlu w = some i → encodeWord i = w := by
  unfold decodeAlu
  iterate 9 refine forall_decoded_of_ite (packXYN_fields hop) ?_
  exact nofun

theorem encodeWord_decodeKey (hop : (fieldOp w).toNat = 0xE) : ∀ i, decodeKey w = some i → encodeWord i = w := by
  unfold decodeKey
  iterate 2 refine forall_decoded_of_ite (packXNn_fields hop) ?_
  exact nofun

theorem encodeWord_decodeMisc (hop : (fieldOp w).toNat = 0xF) : ∀ i, decodeMisc w = some i → encodeWord i = w := by
  unfold decodeMisc
  iterate 9 refine forall_decoded_of_ite (packXNn_fields hop) ?_
  exact nofun

/-- A decoded instruction encodes to the word it was read from. -/
theorem encodeWord_of_decodeWord (h : decodeWord w = some i) : encodeWord i = w := by
  have hn : fieldN w = BitVec.ofNat 4 (fieldN w).toNat := by rw [BitVec.ofNat_toNat, BitVec.setWidth_eq]
  unfold decodeWord at h
  split at h <;> rename_i hop
  · exact encodeWord_decodeZero i h
  · cases h; exact packNnn_fields hop
  · cases h; exact packNnn_fields hop
  · cases h; exact packXNn_fields hop rfl
  · cases h; exact packXNn_fields hop rfl
  · exact forall_decoded_of_ite (P := (encodeWord · = w)) (o := none) (packXYN_fields hop) nofun i h
  · cases h; exact packXNn_fields hop rfl
  · cases h; exact packXNn_fields hop rfl
  · exact encodeWord_decodeAlu hop i h
  · exact forall_decoded_of_ite (P := (encodeWord · = w)) (o := none) (packXYN_fields hop) nofun i h
  · cases h; exact packNnn_fields hop
  · cases h; exact packNnn_fields hop
  · cases h; exact packXNn_fields hop rfl
  · cases h; exact packXYN_fields hop hn
  · exact encodeWord_decodeKey hop i h
  · exact encodeWord_decodeMisc hop i h
  · cases h

/-- Settles O3, by the two lemmas about a decoded word. -/
theorem decodeThenEncode : Obligations.DecodeThenEncode :=
  fun _ _ h => ⟨Machine.decodeWord_wellFormed h, encodeWord_of_decodeWord h⟩

/-! ### The rows of the opcode map (R83, R86) -/

/-- The rows of the map are those of the instructions. -/
theorem mem_opcodeMap_iff (r : OpcodeRow) : r ∈ opcodeMap ↔ ∃ i : Instr, i.row = r := by
  constructor
  · intro h
    rw [opcodeMap, ← List.map_append, ← List.map_append] at h
    obtain ⟨i, -, hi⟩ := List.mem_map.1 h
    exact ⟨i, hi⟩
  · rintro ⟨i, rfl⟩
    cases i <;> (dsimp only [Instr.row]; decide)

open Laws.FitsItsRow in
/-- The word of an instruction fits the row of that instruction. -/
theorem row_fits_encodeWord (i : Instr) : i.row.fits (encodeWord i) = true := by
  cases i with
  | cls => exact cls
  | ret => exact ret
  | jp nnn => exact jp nnn
  | call nnn => exact call nnn
  | seVxNn x nn => exact seVxNn x nn
  | sneVxNn x nn => exact sneVxNn x nn
  | seVxVy x y => exact seVxVy x y
  | ldVxNn x nn => exact ldVxNn x nn
  | addVxNn x nn => exact addVxNn x nn
  | ldVxVy x y => exact ldVxVy x y
  | orVxVy x y => exact orVxVy x y
  | andVxVy x y => exact andVxVy x y
  | xorVxVy x y => exact xorVxVy x y
  | addVxVy x y => exact addVxVy x y
  | subVxVy x y => exact subVxVy x y
  | shrVx x y => exact shrVx x y
  | subnVxVy x y => exact subnVxVy x y
  | shlVx x y => exact shlVx x y
  | sneVxVy x y => exact sneVxVy x y
  | ldINnn nnn => exact ldINnn nnn
  | jpV0 nnn => exact jpV0 nnn
  | rndVxNn x nn => exact rndVxNn x nn
  | drw x y n => exact drw x y n
  | skpVx x => exact skpVx x
  | sknpVx x => exact sknpVx x
  | ldVxDt x => exact ldVxDt x
  | ldVxK x => exact ldVxK x
  | ldDtVx x => exact ldDtVx x
  | ldStVx x => exact ldStVx x
  | addIVx x => exact addIVx x
  | ldFVx x => exact ldFVx x
  | ldBVx x => exact ldBVx x
  | ldMemVx x => exact ldMemVx x
  | ldVxMem x => exact ldVxMem x

/-- A decoded word fits the row of its instruction. -/
theorem row_fits_of_decodeWord (h : decodeWord w = some i) : i.row.fits w = true := by
  rw [← encodeWord_of_decodeWord h]; exact row_fits_encodeWord i

/-! ### What a fitting word has in common with its row -/

variable {r q : OpcodeRow}

theorem OpcodeRow.fits_iff_mask_match : r.fits w = true ↔ w &&& r.mask = r.bits := beq_iff_eq

/-- Where the mask is all ones, a fitting word agrees with the row's bits. -/
theorem OpcodeRow.extract_of_fits (h : r.fits w = true) {start len : Nat}
    (hm : r.mask.extractLsb' start len = BitVec.allOnes len) :
    w.extractLsb' start len = r.bits.extractLsb' start len := by
  rw [← fits_iff_mask_match.1 h, BitVec.extractLsb'_and, hm, BitVec.and_allOnes]

/-- Every mask covers op[15:12] (R81). -/
theorem fieldOp_of_row_fits (h : i.row.fits w = true) : fieldOp w = i.row.bits.extractLsb' 12 4 :=
  OpcodeRow.extract_of_fits h (by cases i <;> simp [Instr.row])

/-- The masks of formats XY cover op[3:0] (R85). -/
theorem fieldN_of_fits (h : r.fits w = true) (hm : r.mask = 0xF00F) : fieldN w = r.bits.extractLsb' 0 4 :=
  OpcodeRow.extract_of_fits h (by simp [hm])

/-- The masks of format XF cover op[7:0] (R85). -/
theorem fieldNn_of_fits (h : r.fits w = true) (hm : r.mask = 0xF0FF) : fieldNn w = r.bits.extractLsb' 0 8 :=
  OpcodeRow.extract_of_fits h (by simp [hm])

/-- A word that fits the row of an instruction decodes to an instruction of that row: the mask fixes every field the
decoder tests. -/
theorem exists_decodeWord_of_row_fits (h : i.row.fits w = true) : ∃ j, decodeWord w = some j ∧ j.row = i.row := by
  have hop := fieldOp_of_row_fits h
  cases i with
  | cls | ret =>
    have hw : w = _ := (BitVec.and_allOnes).symm.trans (OpcodeRow.fits_iff_mask_match.1 h)
    rw [hw]; exact ⟨_, rfl, rfl⟩
  | jp _ | call _ | seVxNn _ _ | sneVxNn _ _ | ldVxNn _ _ | addVxNn _ _ | ldINnn _ | jpV0 _ | rndVxNn _ _
  | drw _ _ _ =>
    simp [decodeWord, hop, Instr.row]
  | seVxVy _ _ | sneVxVy _ _ =>
    simp [decodeWord, hop, fieldN_of_fits h rfl, Instr.row]
  | ldVxVy _ _ | orVxVy _ _ | andVxVy _ _ | xorVxVy _ _ | addVxVy _ _ | subVxVy _ _ | shrVx _ _ | subnVxVy _ _
  | shlVx _ _ =>
    simp [decodeWord, hop, decodeAlu, fieldN_of_fits h rfl, Instr.row]
  | skpVx _ | sknpVx _ =>
    simp [decodeWord, hop, decodeKey, fieldNn_of_fits h rfl, Instr.row]
  | ldVxDt _ | ldVxK _ | ldDtVx _ | ldStVx _ | addIVx _ | ldFVx _ | ldBVx _ | ldMemVx _ | ldVxMem _ =>
    simp [decodeWord, hop, decodeMisc, fieldNn_of_fits h rfl, Instr.row]

/-- Settles O4: a fitting word decodes into the row, and a decoded word fits its own row. -/
theorem decodeIsTheMaskMatch : Obligations.DecodeIsTheMaskMatch := by
  intro w r hr
  obtain ⟨i, rfl⟩ := (mem_opcodeMap_iff r).1 hr
  refine ⟨exists_decodeWord_of_row_fits, ?_⟩
  rintro ⟨j, hj, hrow⟩
  exact hrow ▸ row_fits_of_decodeWord hj

/-- Two rows that fit one word agree on the bits both masks cover. -/
theorem OpcodeRow.bits_agree_of_fits (hr : r.fits w = true) (hq : q.fits w = true) :
    r.bits &&& q.mask = q.bits &&& r.mask := by
  rw [← fits_iff_mask_match.1 hr, ← fits_iff_mask_match.1 hq, BitVec.and_assoc, BitVec.and_assoc,
    BitVec.and_comm r.mask]

/-- Any two rows of the map differ in a bit both masks cover. -/
theorem opcodeMap_bits_clash : opcodeMap.Pairwise fun r q => r.bits &&& q.mask ≠ q.bits &&& r.mask := by decide

/-- Settles O5: two rows one word fits would agree on the bits both masks cover. -/
theorem opcodeRowsAreDisjoint : Obligations.OpcodeRowsAreDisjoint :=
  ⟨rfl, opcodeMap_bits_clash.imp fun hne _ h => hne (OpcodeRow.bits_agree_of_fits h.1 h.2)⟩

/-- R88: a word that fits no row of the map does not decode. -/
theorem decodeWord_eq_none (h : ∀ r ∈ opcodeMap, r.fits w = false) : decodeWord w = none := by
  rw [Option.eq_none_iff_forall_ne_some]
  intro i hi
  exact absurd (row_fits_of_decodeWord hi) (by simp [h i.row ((mem_opcodeMap_iff _).2 ⟨i, rfl⟩)])

/-- Settles O1, by running the decoder. -/
theorem sampleWordsDecode : Obligations.SampleWordsDecode := ⟨rfl, rfl, rfl, rfl⟩

end Sys2Proof

namespace Sys2Proof.Machine

/-- R104: the step of a Running core that fetches a word with no decoding raises the fault after the advance. -/
theorem step_of_decodeWord_none {s : State} (hf : s.fault = none) (hw : s.waitActive = false)
    (hpc : s.pc.toNat + 2 ≤ s.cfg.memSize) (hdec : decodeWord s.fetchWord = none) :
    step s = .next (s.hostMove.advance.raise (.unimplementedInstruction s.fetchWord s.pc)) := by
  rw [step_eq, hf, hw, decide_eq_true hpc, hdec]

/-- R222, C1: an unimplemented word changes pc, the fault record and the event list only. -/
theorem State.advance_raise_frame (s : State) (f : FaultRecord) :
    Frame [] [.pc, .fault, .events] s (s.advance.raise f) := by
  apply Frame.of_fields <;> simp [State.reg]

/-- Settles O9: a word no row fits does not decode, and the step then raises after the advance. -/
theorem unimplementedWordFaults : Obligations.UnimplementedWordFaults := by
  intro s hf hw hpc hnone
  exact ⟨_, step_of_decodeWord_none hf hw hpc (decodeWord_eq_none hnone), rfl, rfl, BitVec.toNat_add s.pc 2,
    s.hostMove.advance_raise_frame _⟩

end Sys2Proof.Machine
end

section
/-! PROOFS of the family 40_step_cycle.md: one equation of `step` per branch of a Step event (R100 to R108), the key
poll, the Ticks of the host's move, and what an instruction does to the latch; the obligations are read off these. -/

namespace Sys2Proof.Machine

variable {i : Instr} {s t : State}

/-! ### The branches of a step (R100 to R108) -/

/-- R108: with a fault recorded the step stops. -/
theorem step_of_fault {f : FaultRecord} (hf : s.fault = some f) : step s = .fault (.stopped f) := by
  rw [step_eq, hf]

/-- R101: a waiting core polls the keys. -/
theorem step_of_waiting (hf : s.fault = none) (hw : s.waitActive = true) : step s = .next s.hostMove.pollKeys := by
  rw [step_eq, hf, hw]

/-- R103 to R105: a Running core whose word at pc decodes to `i` runs `i` after the advance. -/
theorem step_of_decodeWord_some (hf : s.fault = none) (hw : s.waitActive = false)
    (hpc : s.pc.toNat + 2 ≤ s.cfg.memSize) (hdec : decodeWord s.fetchWord = some i) :
    step s = exec i s.hostMove.advance := by
  rw [step_eq, hf, hw, decide_eq_true hpc, hdec]

/-- R102, D11: a Running core that cannot fetch raises before the advance. -/
theorem step_of_fetch_out_of_bounds (hf : s.fault = none) (hw : s.waitActive = false)
    (hpc : s.cfg.memSize < s.pc.toNat + 2) : step s = .next (s.hostMove.raise (.outOfBounds s.pc.toNat 2)) := by
  rw [step_eq, hf, hw, decide_eq_false (Nat.not_le_of_lt hpc)]

/-- R56, R104: what the two bytes at pc decode to is what the word fetched decodes to. -/
theorem State.decode_bytesAtPc_iff (s : State) (i : Instr) :
    decode [s.byteAt s.pc.toNat, s.byteAt (s.pc.toNat + 1)] = .ok (i, []) ↔ decodeWord s.fetchWord = some i :=
  decode_ok_iff _ _ i

/-- Settles O11. -/
theorem faultedCoreHasNoStep : Obligations.FaultedCoreHasNoStep := fun _ _ => step_of_fault

/-- Settles O8: the step raises on the state after the host's move, and OutOfBounds has no event. -/
theorem fetchPastMemoryFaults : Obligations.FetchPastMemoryFaults := fun s hf hw hpc =>
  ⟨_, step_of_fetch_out_of_bounds hf hw hpc, rfl, s.hostMove.raise_frame _ rfl⟩

/-- Settles O6: the branch of a decoded word, and the frame of the host's move. -/
theorem stepRunsTheDecodedInstruction : Obligations.StepRunsTheDecodedInstruction := fun s i hf hw hpc hdec =>
  ⟨step_of_decodeWord_some hf hw hpc ((s.decode_bytesAtPc_iff i).1 hdec), s.hostMove_frame, s.hostMove_cfg,
    s.hostMove_events⟩

/-- R105, R225: every instruction answers a next state; those with a guard raise where the guard fails. -/
theorem exec_total (i : Instr) (s : State) : ∃ t, exec i s = .next t := by
  cases i with
  | ret | call _ | drw _ _ _ | ldBVx _ | ldMemVx _ | ldVxMem _ =>
    simp only [exec, execRet, execCall, execDrw, execLdBVx, execLdMemVx, execLdVxMem]
    split <;> exact ⟨_, rfl⟩
  | _ => exact ⟨_, rfl⟩

/-- Settles O12, by the branches of an unfaulted step; only a decoded instruction needs an argument. -/
theorem unfaultedCoreAlwaysSteps : Obligations.UnfaultedCoreAlwaysSteps := by
  intro s hf
  cases hw : s.waitActive with
  | true => exact ⟨_, step_of_waiting hf hw⟩
  | false =>
    by_cases hpc : s.pc.toNat + 2 ≤ s.cfg.memSize
    · cases hdec : decodeWord s.fetchWord with
      | some i => exact step_of_decodeWord_some hf hw hpc hdec ▸ exec_total i _
      | none => exact ⟨_, step_of_decodeWord_none hf hw hpc hdec⟩
    · exact ⟨_, step_of_fetch_out_of_bounds hf hw (Nat.lt_of_not_le hpc)⟩

/-! ### The key poll (R101) -/

/-- With no key down the poll changes nothing. -/
theorem State.pollKeys_of_lowestKey_eq_none (h : lowestKey s.keys = none) : s.pollKeys = s := by
  rw [State.pollKeys, h]

/-- With a key down the poll puts the lowest one into the recorded register and wakes the core. -/
theorem State.pollKeys_of_lowestKey_eq_some {k : RegIdx} (h : lowestKey s.keys = some k) :
    s.pollKeys = (s.setReg s.waitReg (BitVec.ofNat 8 k.val)).wake := by
  rw [State.pollKeys, h]

/-- Waking changes the latch only. -/
theorem State.wake_frame (s : State) : Frame [] [.latch] s s.wake := by
  apply Frame.of_fields <;> simp

/-- A key number fits the byte a register receives. -/
theorem keyByte_toNat (k : RegIdx) : (BitVec.ofNat 8 k.val).toNat = k.val := by
  rw [BitVec.toNat_ofNat, Nat.mod_eq_of_lt (k.isLt.trans (by decide))]

/-- Settles O10: the two clauses are the two answers of the poll. -/
theorem pollTakesTheLowestKey : Obligations.PollTakesTheLowestKey := by
  intro s hf hw
  rw [step_of_waiting hf hw]
  refine ⟨fun hnone => ?_, fun k hk hlow => ?_⟩
  · rw [State.pollKeys_of_lowestKey_eq_none ((lowestKey_eq_none _).2 hnone)]
  · rw [State.pollKeys_of_lowestKey_eq_some ((lowestKey_eq_some _ k).2 ⟨hk, hlow⟩)]
    refine ⟨_, rfl, ?_, rfl, rfl, rfl, ?_⟩
    · rw [State.reg_wake, State.hostMove_waitReg, State.reg_setReg, if_pos rfl, keyByte_toNat]
    · exact ((State.setReg_frame _ _ _).mono (List.Subset.refl _) (List.nil_subset _)).trans
        ((State.wake_frame _).mono (List.nil_subset _) (List.Subset.refl _))

/-! ### Ticks and the host's move (R111, R112) -/

/-- Ticking n times is taking n from each timer at once. -/
theorem State.tick_iterate (s : State) (n : Nat) : State.tick^[n] s = s.ticks n := by
  induction n with
  | zero => exact s.ticks_zero.symm
  | succ n ih => rw [Function.iterate_succ_apply', ih, State.ticks_succ]

/-- R111: Ticks change the timers only. -/
theorem State.ticks_frame (s : State) (n : Nat) : Frame [] [.delay, .sound] s (s.ticks n) := by
  apply Frame.of_fields <;> simp

/-- Log 4: a scripted input is the one used. -/
theorem State.nextInput_of_script {h : HostInput} {rest : List HostInput} (hs : s.script = h :: rest) :
    s.nextInput = h := by
  rw [State.nextInput, hs]

/-- Settles O13. -/
theorem tickDecrementsTheTimers : Obligations.TickDecrementsTheTimers := fun s =>
  ⟨s.tick, rfl, countDown_toNat s.dt 1, countDown_toNat s.st 1, s.ticks_frame 1⟩

/-- Settles O7: the model's one subtraction is the Ticks one by one. -/
theorem hostMoveIsTicksThenSample : Obligations.HostMoveIsTicksThenSample := by
  intro s
  rw [State.tick_iterate]
  exact ⟨rfl, fun _ _ => State.nextInput_of_script⟩

/-! ### Parking (R110) -/

/-- A signal changes the event list only. -/
theorem State.signal_frame (s : State) (e : OutEvent) : Frame [] [.events] s (s.signal e) := by
  apply Frame.of_fields <;> simp

/-- R122, R130: a jump to its own address undoes the advance and signals HaltRecommended. -/
theorem State.advance_jump_pc (s : State) : s.advance.jump s.pc = s.signal .haltRecommended := by
  have htarget : s.pc = s.advance.fetchAddr := (BitVec.add_sub_cancel s.pc 2).symm
  rw [State.jump, if_pos htarget]
  rfl

/-- R110: the step of a parked core is the host's move and the signal. -/
theorem step_of_parked {a : Word} (hp : s.Parked a) : step s = .next (s.hostMove.signal .haltRecommended) := by
  obtain ⟨hf, hw, rfl, hpc, hdec⟩ := hp
  rw [step_of_decodeWord_some hf hw hpc ((s.decode_bytesAtPc_iff _).1 hdec)]
  exact congrArg Host.Outcome.next s.hostMove.advance_jump_pc

/-- Settles O14: neither the host's move nor a signal touches what parking speaks of. -/
theorem parkedCoreStaysParked : Obligations.ParkedCoreStaysParked := fun s _ hp =>
  ⟨_, step_of_parked hp, rfl, s.hostMove.signal_frame _, hp⟩

/-! ### Entering AwaitingKey (R109) -/

/-- R203: FX0A sets the latch, with x as its register; every other instruction leaves the latch alone. -/
theorem exec_latch (h : exec i s = .next t) :
    (t.waitActive = s.waitActive ∧ t.waitReg = s.waitReg) ∨ i = .ldVxK t.waitReg := by
  obtain ⟨f, rfl⟩ | h := exec_raises_or_completes h
  · exact .inl ⟨rfl, rfl⟩
  cases i with
  | ldVxK x => cases h; exact .inr rfl
  | ret | call _ | drw _ _ _ | ldBVx _ | ldMemVx _ | ldVxMem _ => obtain ⟨-, rfl⟩ := h; exact .inl ⟨rfl, rfl⟩
  | _ => cases h; simp

/-- Settles O56: of the branches of a Running step only a decoded instruction can set the latch, and it is FX0A. -/
theorem onlyWaitForKeyEntersAwaitingKey : Obligations.OnlyWaitForKeyEntersAwaitingKey := by
  intro s t hw h ht
  rw [State.decode_bytesAtPc_iff]
  obtain ⟨-, ⟨hwait, -⟩ | ⟨-, -, i, hi, hex⟩ | ⟨-, -, -, rfl⟩ | ⟨-, -, rfl⟩⟩ := step_cases h
  · exact absurd hwait (by simp [hw])
  · obtain ⟨hsame, -⟩ | rfl := exec_latch hex
    · exact absurd (hsame.symm.trans ht) (by simp [hw])
    · exact hi
  · exact absurd ht (by simp [hw])
  · exact absurd ht (by simp [hw])

end Sys2Proof.Machine
end

section
/-! PROOFS of the family 41_control_flow.md: what a jump, a skip, a call and a return leave. 2NNN and 00EE have one
equation of `exec` per outcome of their guard, and `exec_stack_pc` says for every instruction where pc can go. -/

namespace Sys2Proof.Machine

variable {s : State}

/-! ### Jumps (R122, R124, R130) -/

/-- Settles O19: both clauses are the fields of a jump. -/
theorem jumpGoesToItsAddress : Obligations.JumpGoesToItsAddress := fun s nnn =>
  ⟨s.jump nnn, rfl, s.jump_pc nnn, s.jump_events nnn, s.jump_frame nnn⟩

/-- Settles O20: a 12-bit nnn plus a byte fits pc, so comparing the target with fa is comparing the numbers. -/
theorem offsetJumpAddsV0 : Obligations.OffsetJumpAddsV0 := by
  intro s nnn hw
  have htarget : (offsetTarget nnn (s.reg 0)).toNat = nnn.toNat + (s.reg 0).toNat :=
    offsetTarget_toNat nnn _ ((fitsNnn_iff nnn).1 hw)
  refine ⟨s.jump (offsetTarget nnn (s.reg 0)), rfl, ?_, ?_, s.jump_frame _⟩
  · rw [State.jump_pc, htarget]
  · simp only [State.jump_events, ← BitVec.toNat_inj, htarget]

/-! ### Skips (R125 to R129) -/

/-- R129: pc moves 2 further, modulo 65536, exactly when the skip's condition holds. -/
theorem State.skipIf_pc_toNat (s : State) {c : Bool} {P : Prop} [Decidable P] (hc : c = true ↔ P) :
    (s.skipIf c).pc.toNat = if P then (s.pc.toNat + 2) % 65536 else s.pc.toNat := by
  rw [State.skipIf_pc, apply_ite BitVec.toNat]
  exact if_congr hc (BitVec.toNat_add s.pc 2) rfl

/-- R125, R127: bytes are equal as numbers exactly when they are equal. -/
theorem decide_byte_eq_iff (a b : Byte) : decide (a = b) = true ↔ a.toNat = b.toNat :=
  decide_eq_true_iff.trans BitVec.toNat_inj.symm

/-- R126, R128: the negated condition. -/
theorem decide_byte_ne_iff (a b : Byte) : decide (a ≠ b) = true ↔ a.toNat ≠ b.toNat :=
  decide_eq_true_iff.trans (not_congr BitVec.toNat_inj.symm)

/-- Settles O21. -/
theorem immediateSkips : Obligations.ImmediateSkips := fun s x nn =>
  ⟨⟨_, rfl, s.skipIf_pc_toNat (decide_byte_eq_iff (s.reg x) nn), s.skipIf_frame _⟩,
    ⟨_, rfl, s.skipIf_pc_toNat (decide_byte_ne_iff (s.reg x) nn), s.skipIf_frame _⟩⟩

/-- Settles O22. -/
theorem registerSkips : Obligations.RegisterSkips := fun s x y =>
  ⟨⟨_, rfl, s.skipIf_pc_toNat (decide_byte_eq_iff (s.reg x) (s.reg y)), s.skipIf_frame _⟩,
    ⟨_, rfl, s.skipIf_pc_toNat (decide_byte_ne_iff (s.reg x) (s.reg y)), s.skipIf_frame _⟩⟩

/-! ### Calls (R123, R223) -/

/-- R123: with a free slot 2NNN pushes the advanced pc and jumps. -/
theorem exec_call_of_hasRoom (nnn : Word) (h : s.hasRoom = true) :
    exec (.call nnn) s = .next ((s.push s.pc).setPc nnn) := if_pos h

/-- R223, D8: with no free slot 2NNN raises. -/
theorem exec_call_of_not_hasRoom (nnn : Word) (h : ¬ s.hasRoom = true) :
    exec (.call nnn) s = .next (s.raise (.stackOverflow s.fetchAddr)) := if_neg h

/-- A legal stack that is not full has a free slot, inside the store (R26, R27). -/
theorem State.hasRoom_and_slot_in_store (hs : s.StackShape) (hfull : s.sp ≠ 2 * s.cfg.stackDepth) :
    s.hasRoom = true ∧ s.sp + 2 ≤ s.stk.length := by
  obtain ⟨heven, hle, hlen⟩ := hs
  have hroom : s.hasRoom = true := (s.hasRoom_iff_ne heven hle).2 hfull
  exact ⟨hroom, hlen ▸ s.hasRoom_iff.1 hroom⟩

/-- A call changes the stack and pc only. -/
theorem State.push_setPc_frame (s : State) (a w : Word) : Frame [] [.pc, .stack] s ((s.push a).setPc w) := by
  apply Frame.of_fields <;> simp

/-- Settles O23: each byte of STK is read off the push. -/
theorem callPushesTheReturnAddress : Obligations.CallPushesTheReturnAddress := by
  intro s nnn hs hfull
  obtain ⟨hroom, hin⟩ := State.hasRoom_and_slot_in_store hs hfull
  have hread (o : Nat) : ((s.push s.pc).setPc nnn).stkRead o =
      if o = s.sp then hiByte s.pc else if o = s.sp + 1 then loByte s.pc else s.stkRead o :=
    s.stkRead_push s.pc o hin
  refine ⟨_, exec_call_of_hasRoom nnn hroom, rfl, rfl, ?_, ?_, fun o ho ho' => ?_, s.push_setPc_frame s.pc nnn⟩
  · rw [hread, if_pos rfl, hiByte_toNat]
  · rw [hread, if_neg (Nat.succ_ne_self s.sp), if_pos rfl, loByte_toNat]
  · rw [hread, if_neg ho, if_neg ho']

/-- Settles O24: sp at the top leaves no free slot, and StackOverflow has no event. -/
theorem callOnAFullStackFaults : Obligations.CallOnAFullStackFaults := by
  intro s nnn hfull
  have hroom : ¬ s.hasRoom = true := by rw [State.hasRoom_iff]; omega
  exact ⟨_, exec_call_of_not_hasRoom nnn hroom, rfl, s.raise_frame _ rfl⟩

/-! ### Returns (R121, R224) -/

/-- R121: with a return address held 00EE pops it into pc. -/
theorem exec_ret_of_hasReturn (h : s.hasReturn = true) :
    exec .ret s = .next ((s.setSp (s.sp - 2)).setPc (s.slot (s.sp - 2))) := if_pos h

/-- R224, D8: with none held 00EE raises. -/
theorem exec_ret_of_not_hasReturn (h : ¬ s.hasReturn = true) :
    exec .ret s = .next (s.raise (.stackUnderflow s.fetchAddr)) := if_neg h

/-- A return changes sp and pc only. -/
theorem State.setSp_setPc_frame (s : State) (n : Nat) (w : Word) :
    Frame [] [.pc, .stack] s ((s.setSp n).setPc w) := by
  apply Frame.of_fields <;> simp

/-- Settles O25: pc is the slot below sp, and a pop writes no byte of STK. -/
theorem returnPopsTheReturnAddress : Obligations.ReturnPopsTheReturnAddress := by
  rintro s ⟨heven, -⟩ hne
  exact ⟨_, exec_ret_of_hasReturn ((s.hasReturn_iff_ne heven).2 hne), rfl, be16_toNat _ _,
    State.stkRead_congr rfl, s.setSp_setPc_frame _ _⟩

/-- Settles O26: sp = 0 holds no address, and StackUnderflow has no event. -/
theorem returnOnAnEmptyStackFaults : Obligations.ReturnOnAnEmptyStackFaults := by
  intro s hsp
  have hret : ¬ s.hasReturn = true := by rw [State.hasReturn_iff]; omega
  exact ⟨_, exec_ret_of_not_hasReturn hret, rfl, s.raise_frame _ rfl⟩

/-! ### A call and its return (Q12) -/

/-- Settles O27: the return pops the slot the call filled; its own fetch moves only pc, which the pop overwrites. -/
theorem callThenReturn : Obligations.CallThenReturn := by
  intro s nnn hs hfull
  obtain ⟨hroom, hin⟩ := State.hasRoom_and_slot_in_store hs hfull
  have hret : ((s.push s.pc).setPc nnn).advance.hasReturn = true :=
    (State.hasReturn_iff _).2 (Nat.le_add_left 2 s.sp)
  exact ⟨_, _, exec_call_of_hasRoom nnn hroom, exec_ret_of_hasReturn hret, s.slot_push_self s.pc hin, rfl⟩

/-! ### Where pc can go (R120, Q1) -/

/-- BNNN's target is the sum of two words, modulo 65536 (R124, D16). -/
theorem offsetTarget_eq_add (nnn : Word) (a : Byte) : offsetTarget nnn a = nnn + a.setWidth 16 := by
  apply BitVec.eq_of_toNat_eq
  rw [offsetTarget, BitVec.toNat_ofNat, BitVec.toNat_add, BitVec.toNat_setWidth]
  omega

/-- Settles O52: each way `exec_stack_pc` lets pc go is one disjunct. -/
theorem wherePcCanGo : Obligations.WherePcCanGo := by
  intro i s t h
  obtain ⟨-, -, hpc | hpc | hjp | ⟨nnn, hi, hpc⟩⟩ | ⟨hi, -, rfl⟩ | ⟨nnn, hi, -, rfl⟩ := exec_stack_pc h
  · exact .inl hpc
  · exact .inr (.inl hpc)
  · exact .inr (.inr (.inl ⟨t.pc, .inl hjp, rfl⟩))
  · exact .inr (.inr (.inr (.inl ⟨nnn, hi, hpc.trans (offsetTarget_eq_add nnn _)⟩)))
  · exact .inr (.inr (.inr (.inr ⟨hi, rfl⟩)))
  · exact .inr (.inr (.inl ⟨nnn, .inr hi, rfl⟩))

end Sys2Proof.Machine
end

section
/-! PROOFS of the family 42_load_alu.md: each row writes V[x], and the rows that have a flag write VF as well, before
V[x] (the shifts) or after it (the sum and the differences). For each order, lemmas say what the two registers hold
after it; with the numbers of `Laws/Alu.lean` and the frame of two register writes they give every statement. -/

namespace Sys2Proof.Machine

variable {s : State} {x : RegIdx}

/-! ### One and two register writes -/

theorem State.reg_setReg_self (s : State) (x : RegIdx) (b : Byte) : (s.setReg x b).reg x = b :=
  (s.reg_setReg x x b).trans (if_pos rfl)

/-- A write to another register is not seen. -/
theorem State.reg_setReg_of_ne {r : RegIdx} (h : r ≠ x) (b : Byte) : (s.setReg x b).reg r = s.reg r :=
  (s.reg_setReg x r b).trans (if_neg h)

/-- R155: of a result and then a flag, the result stays in V[x] unless x is VF. -/
theorem State.reg_result_then_flag (hx : x ≠ 15) (result flag : Byte) :
    ((s.setReg x result).setReg vf flag).reg x = result := by
  rw [State.reg_setReg_of_ne hx, State.reg_setReg_self]

/-- Two register writes change those registers only, in whichever order they are listed. -/
theorem State.setReg_setReg_frame {regs : List RegIdx} {y : RegIdx} (hx : x ∈ regs) (hy : y ∈ regs) (a b : Byte) :
    Frame regs [] s ((s.setReg x a).setReg y b) :=
  ((s.setReg_frame x a).mono (by simpa using hx) (List.Subset.refl [])).trans
    ((State.setReg_frame _ y b).mono (by simpa using hy) (List.Subset.refl []))

/-- The frame of the rows that write the result and then the flag. -/
theorem State.result_then_flag_frame (result flag : Byte) :
    Frame [x, 15] [] s ((s.setReg x result).setReg vf flag) :=
  State.setReg_setReg_frame (by simp) (by simp) result flag

/-! ### Loads and logic (R141 to R146, R152) -/

/-- Settles O28. -/
theorem loadImmediate : Obligations.LoadImmediate := fun s x nn =>
  ⟨s.setReg x nn, rfl, s.reg_setReg_self x nn, s.setReg_frame x nn⟩

/-- Settles O29. -/
theorem addImmediate : Obligations.AddImmediate := by
  intro s x nn
  refine ⟨s.setReg x (addByte (s.reg x) nn), rfl, ?_, s.setReg_frame x _⟩
  rw [State.reg_setReg_self, addByte_toNat]

/-- Settles O30. -/
theorem copyRegister : Obligations.CopyRegister := fun s x y =>
  ⟨s.setReg x (s.reg y), rfl, s.reg_setReg_self x (s.reg y), s.setReg_frame x _⟩

/-- Settles O31: the operators on words are the operators on their bits. -/
theorem logicActsBitwise : Obligations.LogicActsBitwise := by
  intro s x y
  refine ⟨⟨s.setReg x (s.reg x ||| s.reg y), rfl, s.setReg_frame x _, fun k _ => ?_⟩,
    ⟨s.setReg x (s.reg x &&& s.reg y), rfl, s.setReg_frame x _, fun k _ => ?_⟩,
    ⟨s.setReg x (s.reg x ^^^ s.reg y), rfl, s.setReg_frame x _, fun k _ => ?_⟩⟩
  · rw [State.reg_setReg_self, BitVec.getLsbD_or]
  · rw [State.reg_setReg_self, BitVec.getLsbD_and]
  · rw [State.reg_setReg_self, BitVec.getLsbD_xor]

/-- Settles O37. -/
theorem randomIsTheMaskedDraw : Obligations.RandomIsTheMaskedDraw := by
  intro s x nn
  refine ⟨s.setReg x (s.draw &&& nn), rfl, fun k _ => ?_, s.setReg_frame x _⟩
  rw [State.reg_setReg_self, BitVec.getLsbD_and]

/-! ### The result, then the flag (R147, R148, R150) -/

/-- Settles O32. -/
theorem addSetsTheCarry : Obligations.AddSetsTheCarry := by
  intro s x y
  refine ⟨_, rfl, fun hx => ?_, ?_, State.result_then_flag_frame _ _⟩
  · rw [State.reg_result_then_flag hx, addByte_toNat]
  · rw [State.reg_setReg_self, carry_toNat]

/-- What 8XY5 and 8XY7 leave: a - b in V[x], then not-borrow in VF. -/
def State.subtract (s : State) (x : RegIdx) (a b : Byte) : State :=
  (s.setReg x (subByte a b)).setReg vf (notBorrow a b)

/-- R148, R150: the result of a subtraction as a number, its flag, and its frame. -/
theorem State.subtract_spec (s : State) (x : RegIdx) (a b : Byte) :
    (x ≠ 15 → (((s.subtract x a b).reg x).toNat : Int) = ((a.toNat : Int) - b.toNat) % 256) ∧
      ((s.subtract x a b).reg 15).toNat = (if a.toNat < b.toNat then 0 else 1) ∧
      Frame [x, 15] [] s (s.subtract x a b) := by
  refine ⟨fun hx => ?_, ?_, State.result_then_flag_frame _ _⟩
  · rw [State.subtract, State.reg_result_then_flag hx, subByte_toNat]
  · rw [State.subtract, State.reg_setReg_self, notBorrow_toNat]

/-- Settles O33. -/
theorem subtractSetsNotBorrow : Obligations.SubtractSetsNotBorrow := fun s x y =>
  ⟨s.subtract x (s.reg x) (s.reg y), rfl, s.subtract_spec x (s.reg x) (s.reg y)⟩

/-- Settles O34: 8XY7 is 8XY5 with the operands exchanged. -/
theorem reverseSubtractSetsNotBorrow : Obligations.ReverseSubtractSetsNotBorrow := fun s x y =>
  ⟨s.subtract x (s.reg y) (s.reg x), rfl, s.subtract_spec x (s.reg y) (s.reg x)⟩

/-! ### The flag, then the shift (R149, R151) -/

/-- What a row leaves that writes `flag` to VF and then `shift` of V[x], as it then stands, to V[x]. -/
def State.flagThenShift (s : State) (x : RegIdx) (flag : Byte) (shift : Byte → Byte) : State :=
  (s.setReg vf flag).setReg x (shift ((s.setReg vf flag).reg x))

theorem exec_shrVx (x y : RegIdx) (s : State) :
    exec (.shrVx x y) s = .next (s.flagThenShift x (shrOut (s.reg x)) shrByte) := rfl

theorem exec_shlVx (x y : RegIdx) (s : State) :
    exec (.shlVx x y) s = .next (s.flagThenShift x (shlOut (s.reg x)) shlByte) := rfl

theorem State.flagThenShift_frame (flag : Byte) (shift : Byte → Byte) :
    Frame [x, 15] [] s (s.flagThenShift x flag shift) :=
  State.setReg_setReg_frame (by simp) (by simp) flag _

/-- R155, D12: with x = 15 it is the flag that is shifted. -/
theorem State.reg_flagThenShift_vf (s : State) (flag : Byte) (shift : Byte → Byte) :
    (s.flagThenShift 15 flag shift).reg 15 = shift flag := by
  rw [State.flagThenShift, State.reg_setReg_self, State.reg_setReg_self]

/-- With another register both the shifted register and the flag stay. -/
theorem State.reg_flagThenShift (s : State) (hx : x ≠ 15) (flag : Byte) (shift : Byte → Byte) :
    (s.flagThenShift x flag shift).reg x = shift (s.reg x) ∧ (s.flagThenShift x flag shift).reg 15 = flag := by
  constructor
  · rw [State.flagThenShift, State.reg_setReg_self, State.reg_setReg_of_ne hx]
  · rw [State.flagThenShift, State.reg_setReg_of_ne hx.symm, State.reg_setReg_self]

/-- Settles O35: with x = 15 the shifted flag is half of 0 or 1. -/
theorem shiftRight : Obligations.ShiftRight := by
  intro s x y
  refine ⟨_, exec_shrVx x y s, State.flagThenShift_frame _ _, ?_⟩
  split
  · next hx =>
    subst hx
    rw [State.reg_flagThenShift_vf, shrByte_toNat, shrOut_toNat]; omega
  · next hx =>
    obtain ⟨hres, hflag⟩ := s.reg_flagThenShift hx (shrOut (s.reg x)) shrByte
    rw [hres, hflag]
    exact ⟨shrByte_toNat _, shrOut_toNat _⟩

/-- Settles O36: with x = 15 the shifted flag is twice 0 or 1. -/
theorem shiftLeft : Obligations.ShiftLeft := by
  intro s x y
  refine ⟨_, exec_shlVx x y s, State.flagThenShift_frame _ _, ?_⟩
  split
  · next hx =>
    subst hx
    have hbyte := (s.reg 15).isLt
    rw [State.reg_flagThenShift_vf, shlByte_toNat, shlOut_toNat]; omega
  · next hx =>
    obtain ⟨hres, hflag⟩ := s.reg_flagThenShift hx (shlOut (s.reg x)) shlByte
    rw [hres, hflag]
    exact ⟨shlByte_toNat _, shlOut_toNat _⟩

end Sys2Proof.Machine
end

section
/-! PROOFS of the family 43_index_memory.md: I takes an address or a sum (R161 to R163), and the block moves transfer a
span of Memory at I or raise (R164 to R167). One equation of `exec` per outcome of a block move's bounds check says what
it leaves; a ranged write and a register load each have lemmas for what they cover, and a frame for the rest. -/

namespace Sys2Proof.Machine

variable {s : State} {x : RegIdx}

/-! ### The index register (R161 to R163) -/

/-- A write to I changes I only. -/
theorem State.setI_frame (s : State) (w : Word) : Frame [] [.index] s (s.setI w) := by
  apply Frame.of_fields <;> simp

/-- A write to I and then one to a register change these two only. -/
theorem State.setI_setReg_frame (s : State) (w : Word) (x : RegIdx) (b : Byte) :
    Frame [x] [.index] s ((s.setI w).setReg x b) :=
  ((s.setI_frame w).mono (List.nil_subset _) (List.Subset.refl _)).trans
    ((State.setReg_frame _ x b).mono (List.Subset.refl _) (List.nil_subset _))

/-- Settles O38: ANNN is one write to I. -/
theorem loadIndex : Obligations.LoadIndex := fun s nnn => ⟨s.setI nnn, rfl, rfl, s.setI_frame nnn⟩

/-- Settles O39: the sum and its flag turn on the same comparison with 0xFFF. -/
theorem addToIndexWraps : Obligations.AddToIndexWraps := by
  intro s x
  refine ⟨_, rfl, s.setI_setReg_frame _ vf _, ?_⟩
  rw [State.reg_setReg_self, State.setReg_i, State.setI_i, indexAdd_toNat, indexOverflow_toNat]
  by_cases hover : s.i.toNat + (s.reg x).toNat > 0xFFF
  · simp only [if_pos hover, and_self]
  · simp only [if_neg hover, and_self]

/-- Settles O40: FX29 is one write to I, of `glyphIndex`. -/
theorem glyphAddress : Obligations.GlyphAddress := fun s x =>
  ⟨s.setI (glyphIndex s.cfg (s.reg x)), rfl, s.setI_frame _, glyphIndex_toNat s.cfg (s.reg x)⟩

/-! ### Ranged writes and the register load (R55, R166) -/

/-- R55: byte k of a ranged write is at the base plus k. -/
theorem State.byteAt_putBytes_of_lt (s : State) (a : Nat) {bs : List Byte} {k : Nat} (hk : k < bs.length) :
    (s.putBytes a bs).byteAt (a + k) = bs.getD k 0 := by
  rw [State.byteAt_putBytes, if_pos (by omega), Nat.add_sub_cancel_left]

/-- A ranged write keeps every byte outside its span. -/
theorem State.byteAt_putBytes_of_outside (s : State) {a b : Nat} {bs : List Byte}
    (hb : b < a ∨ a + bs.length ≤ b) : (s.putBytes a bs).byteAt b = s.byteAt b := by
  rw [State.byteAt_putBytes, if_neg (by omega)]

/-- R166: a load from Memory puts byte a + k into V[k] for k up to x, and keeps the registers above x. -/
theorem State.reg_loadRegs_getRange (s : State) (x k : RegIdx) (a : Nat) :
    (s.loadRegs x (Memory.getRange s.cfg s.mem a (x.val + 1))).reg k =
      if k ≤ x then s.byteAt (a + k.val) else s.reg k := by
  rw [State.reg_loadRegs]
  refine if_ctx_congr Iff.rfl (fun hk => ?_) (fun _ => rfl)
  have hlt : k.val < x.val + 1 := Nat.lt_succ_of_le hk
  simp [Memory.getRange_eq, State.byteAt, List.getD, hlt]

/-- R166: a load changes V[0] to V[x] only. -/
theorem State.loadRegs_frame (s : State) (x : RegIdx) (bs : List Byte) :
    Frame (destinations (.ldVxMem x)) [] s (s.loadRegs x bs) := by
  apply Frame.of_fields
  case hr =>
    intro r hr
    rw [State.reg_loadRegs, if_neg (mt (mem_destinations_ldVxMem x r).2 hr)]
  all_goals simp

/-- R221: an out-of-bounds access records its span and changes nothing else. -/
theorem State.raise_outOfBounds (s : State) (a n : Nat) :
    (s.raise (.outOfBounds a n)).fault = some (.outOfBounds a n) ∧
      Frame [] [.fault] s (s.raise (.outOfBounds a n)) :=
  ⟨rfl, s.raise_frame _ rfl⟩

/-! ### The outcomes of a block move (R164 to R166; FX55 in bounds is `exec_ldMemVx_of_inBounds`) -/

/-- R164: FX33 in bounds writes the digits at I. -/
theorem exec_ldBVx_of_inBounds (h : s.i.toNat + 3 ≤ s.cfg.memSize) :
    exec (.ldBVx x) s = .next (s.putBytes s.i.toNat (bcdDigits (s.reg x))) := by
  change execLdBVx x s = _
  rw [execLdBVx, State.memWrite_eq, bcdDigits_length, if_pos (.inr h)]

/-- R164, R60: FX33 out of bounds raises. -/
theorem exec_ldBVx_of_outOfBounds (h : s.cfg.memSize < s.i.toNat + 3) :
    exec (.ldBVx x) s = .next (s.raise (.outOfBounds s.i.toNat 3)) := by
  change execLdBVx x s = _
  rw [execLdBVx, State.memWrite_eq, bcdDigits_length, if_neg (by omega)]

/-- R165, R60: FX55 out of bounds raises. -/
theorem exec_ldMemVx_of_outOfBounds (h : s.cfg.memSize < s.i.toNat + x.val + 1) :
    exec (.ldMemVx x) s = .next (s.raise (.outOfBounds s.i.toNat (x.val + 1))) := by
  change execLdMemVx x s = _
  rw [execLdMemVx, State.memWrite_eq, State.firstRegs_length, if_neg (by omega)]

/-- R166: FX65 in bounds loads the bytes at I. -/
theorem exec_ldVxMem_of_inBounds (h : s.i.toNat + x.val + 1 ≤ s.cfg.memSize) :
    exec (.ldVxMem x) s = .next (s.loadRegs x (Memory.getRange s.cfg s.mem s.i.toNat (x.val + 1))) := by
  have hin : inBounds s.cfg s.i.toNat (x.val + 1) = true := (inBounds_iff _ _ _).2 (.inr h)
  change execLdVxMem x s = _
  rw [execLdVxMem, State.memRead, if_pos hin]

/-- R166, R60: FX65 out of bounds raises. -/
theorem exec_ldVxMem_of_outOfBounds (h : s.cfg.memSize < s.i.toNat + x.val + 1) :
    exec (.ldVxMem x) s = .next (s.raise (.outOfBounds s.i.toNat (x.val + 1))) := by
  change execLdVxMem x s = _
  rw [execLdVxMem, State.memRead_eq, if_neg (by omega)]

/-! ### The block moves (R164 to R167) -/

/-- Settles O41: the bytes written are the three digits. -/
theorem decimalDigits : Obligations.DecimalDigits := by
  intro s x
  by_cases h : s.i.toNat + 3 ≤ s.cfg.memSize
  · have hbyte (k : Nat) (hk : k < 3) :=
      congrArg BitVec.toNat (s.byteAt_putBytes_of_lt s.i.toNat (bs := bcdDigits (s.reg x)) hk)
    obtain ⟨hhundreds, htens, hones⟩ := bcdDigits_toNat (s.reg x)
    refine ⟨_, exec_ldBVx_of_inBounds h, ?_⟩
    rw [if_pos h]
    exact ⟨(hbyte 0 (by decide)).trans hhundreds, (hbyte 1 (by decide)).trans htens,
      (hbyte 2 (by decide)).trans hones, fun a ha => s.byteAt_putBytes_of_outside ha, s.putBytes_frame _ _⟩
  · refine ⟨_, exec_ldBVx_of_outOfBounds (Nat.lt_of_not_le h), ?_⟩
    rw [if_neg h]
    exact s.raise_outOfBounds _ _

/-- Settles O42: the bytes written are V[0] to V[x]. -/
theorem blockStore : Obligations.BlockStore := by
  intro s x
  by_cases h : s.i.toNat + x.val + 1 ≤ s.cfg.memSize
  · refine ⟨_, exec_ldMemVx_of_inBounds h, ?_⟩
    rw [if_pos h]
    refine ⟨fun k hk => s.byteAt_putBytes_firstRegs _ hk, fun a ha => ?_, s.putBytes_frame _ _⟩
    exact s.byteAt_putBytes_of_outside ((s.firstRegs_length x).symm ▸ ha)
  · refine ⟨_, exec_ldMemVx_of_outOfBounds (Nat.lt_of_not_le h), ?_⟩
    rw [if_neg h]
    exact s.raise_outOfBounds _ _

/-- Settles O43: the registers loaded are those `destinations` names. -/
theorem blockLoad : Obligations.BlockLoad := by
  intro s x
  by_cases h : s.i.toNat + x.val + 1 ≤ s.cfg.memSize
  · refine ⟨_, exec_ldVxMem_of_inBounds h, ?_⟩
    rw [if_pos h]
    exact ⟨fun k => s.reg_loadRegs_getRange x k _, s.loadRegs_frame x _⟩
  · refine ⟨_, exec_ldVxMem_of_outOfBounds (Nat.lt_of_not_le h), ?_⟩
    rw [if_neg h]
    exact s.raise_outOfBounds _ _

end Sys2Proof.Machine
end

section
/-! PROOFS of the family 44_display.md: the clear (R181) and the blit (R182 to R185). `blitBits_spec` reads the blit as
a set of pixels over the sprite's list of bits; here that list is tied to `SpriteCovers`, and one equation of `exec` per
outcome of DXYN's bounds check says what it leaves. -/

namespace Sys2Proof.Machine

variable {s t : State} {x y : RegIdx} {n : Nat}

/-! ### The clear (R181) -/

/-- A new framebuffer and one event change the screen and the event list only. -/
theorem State.setFb_signal_frame (s : State) (fb : List Pixel) (e : OutEvent) :
    Frame [] [.screen, .events] s ((s.setFb fb).signal e) := by
  apply Frame.of_fields <;> simp

/-- Settles O44: the empty list of set pixels has no pixel set. -/
theorem clearScreen : Obligations.ClearScreen := fun s =>
  ⟨(s.setFb []).signal .displayChanged, rfl, fun _ => rfl, rfl, s.setFb_signal_frame [] .displayChanged⟩

/-! ### The blit as a set of pixels (R182) -/

/-- A 1 bit of the sprite is on a pixel exactly when the sprite covers it. -/
theorem mem_spriteBits_iff_covers (c : Config) (vx vy : Nat) (bs : List Byte) (p : Pixel) :
    (p, true) ∈ spriteBits c vx vy 0 bs ↔ SpriteCovers c vx vy bs p := by
  rw [mem_spriteBits, SpriteCovers]
  constructor
  · rintro ⟨row, col, hrow, hcol, hp, hbit⟩
    exact ⟨row, col, hrow, hcol, hbit.symm, by rw [hp, spritePixel, Nat.zero_add]⟩
  · rintro ⟨row, col, hrow, hcol, hbit, hp⟩
    exact ⟨row, col, hrow, hcol, by rw [hp, spritePixel, Nat.zero_add], hbit.symm⟩

section
variable {c : Config} {bs : List Byte} (hw : 8 ≤ c.fbWidth) (hh : bs.length ≤ c.fbHeight)
include hw hh

/-- R182: each pixel is XORed with whether a 1 bit is on it, no two bits being on the same pixel. -/
theorem drawSprite_get (vx vy : Byte) (fb : List Pixel) (p : Pixel) :
    Screen.get (drawSprite c vx vy bs fb).1 p =
      xor (Screen.get fb p) (decide ((p, true) ∈ spriteBits c vx.toNat vy.toNat 0 bs)) := by
  rw [drawSprite, blitRows_eq]
  exact (blitBits_spec _ (spriteBits_nodup c _ _ bs 0 hw (.inr hh)) _).1 p

/-- R182: the blit inverts the covered pixels. -/
theorem drawSprite_get_of_covers (vx vy : Byte) (fb : List Pixel) {p : Pixel}
    (hp : SpriteCovers c vx.toNat vy.toNat bs p) :
    Screen.get (drawSprite c vx vy bs fb).1 p = !Screen.get fb p := by
  rw [drawSprite_get hw hh, decide_eq_true ((mem_spriteBits_iff_covers c _ _ bs p).2 hp), Bool.xor_true]

/-- R182: the blit keeps every other pixel. -/
theorem drawSprite_get_of_not_covers (vx vy : Byte) (fb : List Pixel) {p : Pixel}
    (hp : ¬ SpriteCovers c vx.toNat vy.toNat bs p) :
    Screen.get (drawSprite c vx vy bs fb).1 p = Screen.get fb p := by
  rw [drawSprite_get hw hh, decide_eq_false (mt (mem_spriteBits_iff_covers c _ _ bs p).1 hp), Bool.xor_false]

/-- R182: the blit's answer is the collision. -/
theorem drawSprite_collides_iff (vx vy : Byte) (fb : List Pixel) :
    (drawSprite c vx vy bs fb).2 = true ↔
      ∃ p, SpriteCovers c vx.toNat vy.toNat bs p ∧ Screen.get fb p = true := by
  rw [drawSprite, blitRows_eq, (blitBits_spec _ (spriteBits_nodup c _ _ bs 0 hw (.inr hh)) _).2]
  simp [mem_spriteBits_iff_covers]

end

/-! ### The outcomes of DXYN (R183) -/

/-- What DXYN leaves when its bytes are in bounds: the new framebuffer, then the collision in VF, then the event. -/
def State.drawn (s : State) (x y : RegIdx) (n : Nat) : State :=
  let d := drawSprite s.cfg (s.reg x) (s.reg y) (s.spriteBytes n) s.fb
  ((s.setFb d.1).setReg vf (flagByte d.2)).signal .displayChanged

/-- R183: DXYN in bounds draws the bytes at I. -/
theorem exec_drw_of_inBounds (x y : RegIdx) (h : n = 0 ∨ s.i.toNat + n ≤ s.cfg.memSize) :
    exec (.drw x y n) s = .next (s.drawn x y n) := by
  change execDrw x y n s = _
  rw [execDrw, State.memRead_eq, if_pos h]
  rfl

/-- R183, R60: DXYN out of bounds raises. -/
theorem exec_drw_of_outOfBounds (x y : RegIdx) (h0 : 1 ≤ n) (h : s.cfg.memSize < s.i.toNat + n) :
    exec (.drw x y n) s = .next (s.raise (.outOfBounds s.i.toNat n)) := by
  change execDrw x y n s = _
  rw [execDrw, State.memRead_eq, if_neg (by omega)]

/-- R183: a draw changes VF, the screen and the events only. -/
theorem State.drawn_frame (s : State) (x y : RegIdx) (n : Nat) :
    Frame [15] [.screen, .events] s (s.drawn x y n) := by
  apply Frame.of_fields <;> simp +contextual [State.drawn]

/-- R183: VF after a draw is the collision flag. -/
theorem State.drawn_vf (s : State) (x y : RegIdx) (n : Nat) :
    (s.drawn x y n).reg 15 = flagByte (drawSprite s.cfg (s.reg x) (s.reg y) (s.spriteBytes n) s.fb).2 :=
  State.reg_setReg_self _ vf _

theorem flagByte_eq_one_iff (b : Bool) : (flagByte b).toNat = 1 ↔ b = true := by cases b <;> decide

/-- Under valid parameters a sprite is no wider and no higher than the grid (R7, R182). -/
theorem State.sprite_fits_grid (hc : s.cfg.Valid) (hn : (Instr.drw x y n).wellFormed = true) :
    8 ≤ s.cfg.fbWidth ∧ (s.spriteBytes n).length ≤ s.cfg.fbHeight := by
  obtain ⟨-, -, -, -, -, -, hwidth, hheight, -⟩ := hc
  have hrows : n ≤ 15 := of_decide_eq_true hn
  rw [State.spriteBytes, List.length_map, List.length_range]
  exact ⟨hwidth, hrows.trans hheight⟩

/-- Settles O46. -/
theorem drawPastMemoryFaults : Obligations.DrawPastMemoryFaults := fun s x y _ h0 h =>
  ⟨_, exec_drw_of_outOfBounds x y h0 h, s.raise_outOfBounds _ _⟩

/-- Settles O45: no two bits of the sprite meet, so the blit is read off pixel by pixel. -/
theorem drawInvertsTheCoveredPixels : Obligations.DrawInvertsTheCoveredPixels := by
  intro s x y n hc hn hin
  obtain ⟨hw, hh⟩ := State.sprite_fits_grid hc hn
  refine ⟨_, exec_drw_of_inBounds x y hin, fun p hp => drawSprite_get_of_covers hw hh _ _ _ hp,
    fun p hp => drawSprite_get_of_not_covers hw hh _ _ _ hp, ?_, ?_, rfl, s.drawn_frame x y n⟩
  · rw [State.drawn_vf]
    exact (flagByte_zero_or_one _).symm
  · rw [State.drawn_vf, flagByte_eq_one_iff]
    exact drawSprite_collides_iff hw hh _ _ _

/-! ### Drawing twice (R185, C5) -/

/-- The bytes DXYN reads are the same where I and Memory are. -/
theorem State.spriteBytes_congr (hi : t.i = s.i) (hmem : ∀ a, t.byteAt a = s.byteAt a) (n : Nat) :
    t.spriteBytes n = s.spriteBytes n := by
  simp only [State.spriteBytes, hi, hmem]

/-- Settles O47: the second draw covers the same pixels as the first, and each of them is inverted once more. -/
theorem drawingTwiceRestores : Obligations.DrawingTwiceRestores := by
  intro s t t' x y n hc hn hin hx hy hexec hbetween hcfg'
  obtain ⟨t₀, hexec₀, hset, hkept, -, -, -, hframe⟩ := drawInvertsTheCoveredPixels s x y n hc hn hin
  obtain rfl : t = t₀ := Host.Outcome.next.inj (hexec.symm.trans hexec₀)
  have hcfg : t'.cfg = s.cfg := hcfg'.trans (exec_cfg hexec)
  have hreg (r : RegIdx) (hr : r ≠ 15) : t'.reg r = s.reg r :=
    (hbetween.1 r (by simp)).trans (hframe.1 r (by simpa using hr))
  have hi : t'.i = s.i := (hbetween.2 .index (by decide)).trans (hframe.2 .index (by decide))
  have hmem (a : Nat) : t'.byteAt a = s.byteAt a :=
    (hbetween.2 .memory (by decide) a).trans (hframe.2 .memory (by decide) a)
  have hpixel (p : Pixel) : t'.pixel p = t.pixel p := hbetween.2 .screen (by decide) p
  have hsecond := drawInvertsTheCoveredPixels t' x y n (hcfg ▸ hc) hn (by rwa [hi, hcfg])
  rw [hcfg, hreg x hx, hreg y hy, State.spriteBytes_congr hi hmem] at hsecond
  obtain ⟨u, hexecu, hset', hkept', -, hvf, -, -⟩ := hsecond
  refine ⟨u, hexecu, fun p => ?_, hvf.trans (exists_congr fun p => and_congr_right fun hp => ?_)⟩
  · by_cases hp : SpriteCovers s.cfg (s.reg x).toNat (s.reg y).toNat (s.spriteBytes n) p
    · rw [hset' p hp, hpixel, hset p hp, Bool.not_not]
    · rw [hkept' p hp, hpixel, hkept p hp]
  · rw [hpixel, hset p hp, Bool.not_eq_true']

end Sys2Proof.Machine
end

section
/-! PROOFS of the family 45_keypad_timers.md: a key skip is a skip on `KeyPressed` of V[x] (R200 to R202); FX0A and the
timer moves are one write each (R203 to R206). -/

namespace Sys2Proof.Machine

/-! ### Key skips (R200 to R202) -/

/-- R200: a key number up to 15 is looked up in the sample, and one above is answered by KEY_OOR. -/
theorem State.keyPressed_eq (s : State) (k : Byte) :
    s.keyPressed k = if k.toNat ≤ 15 then s.keys.getLsbD k.toNat else s.cfg.keyOor :=
  if_congr Nat.lt_succ_iff rfl rfl

/-- Settles O48: `down` is the key query, and EXA1 skips on its negation. -/
theorem keySkips : Obligations.KeySkips := by
  intro s x down hdown
  have hquery : s.keyPressed (s.reg x) = down := (s.keyPressed_eq _).trans hdown.symm
  refine ⟨⟨_, rfl, s.skipIf_pc_toNat (by rw [hquery]), s.skipIf_frame _⟩, ⟨_, rfl, ?_, s.skipIf_frame _⟩⟩
  have hnot : (!s.keyPressed (s.reg x)) = true ↔ ¬ down = true := by rw [hquery, Bool.not_eq_true', Bool.not_eq_true]
  rw [s.skipIf_pc_toNat hnot, ite_not]

/-! ### The key latch (R203) -/

/-- Entering AwaitingKey changes the latch only. -/
theorem State.await_frame (s : State) (x : RegIdx) : Frame [] [.latch] s (s.await x) := by
  apply Frame.of_fields <;> simp

/-- Settles O49: FX0A is one write of the latch, and its equation reads no key. -/
theorem waitForKeySetsTheLatch : Obligations.WaitForKeySetsTheLatch := fun s x =>
  ⟨s.await x, rfl, s.await_waitActive x, s.await_waitReg x, s.await_frame x⟩

/-! ### The timers (R204 to R206) -/

/-- A write to DT changes DT only. -/
theorem State.setDt_frame (s : State) (b : Byte) : Frame [] [.delay] s (s.setDt b) := by
  apply Frame.of_fields <;> simp

/-- A write to ST changes ST only. -/
theorem State.setSt_frame (s : State) (b : Byte) : Frame [] [.sound] s (s.setSt b) := by
  apply Frame.of_fields <;> simp

/-- Settles O50: each of the three is one write, of a register or of a timer. -/
theorem timerMoves : Obligations.TimerMoves := fun s x =>
  ⟨⟨s.setReg x s.dt, rfl, s.reg_setReg_self x s.dt, s.setReg_frame x s.dt⟩,
    ⟨s.setDt (s.reg x), rfl, s.setDt_dt (s.reg x), s.setDt_frame (s.reg x)⟩,
    ⟨s.setSt (s.reg x), rfl, s.setSt_st (s.reg x), s.setSt_frame (s.reg x)⟩⟩

end Sys2Proof.Machine
end

section
/-! PROOFS of the family 60_exceptions.md: an instruction that takes a fault does nothing else (R225, R226). -/

namespace Sys2Proof.Machine

/-- Settles O51: of the two outcomes of an instruction only a silent raise can leave a fault where none was. -/
theorem faultingInstructionWritesNothing : Obligations.FaultingInstructionWritesNothing := by
  intro i s t hs h ht
  obtain ⟨-, ⟨f, hsilent, rfl⟩ | hkept⟩ := exec_cases h
  · exact s.raise_frame f hsilent
  · exact absurd (hkept.trans hs) ht

end Sys2Proof.Machine
end

section
/-! PROOFS of the family 70_reset_and_hazards.md: the state that Reset builds, read part by part (R250, R37), and the
answers of a Reset whose preconditions are not met (R251). -/

namespace Sys2Proof.Machine

variable {font program : List Byte} {s : State}

/-! ### What the parameters' constraints give (R7, R251(c))

Stated for the parameters Reset judges: the old ones with the new font. -/

/-- The font is 80 bytes long. -/
theorem font_length_of_valid {c : Config} (h : Config.Valid { c with font := font }) : font.length = 80 := by
  obtain ⟨-, -, -, -, -, hfont, -⟩ := h
  exact hfont

/-- A word fits into Memory at PROG_BASE, and a Memory address into pc. -/
theorem progBase_bounds_of_valid {c : Config} (h : Config.Valid { c with font := font }) :
    c.progBase + 2 ≤ c.memSize ∧ c.memSize ≤ 2 ^ 16 := by
  obtain ⟨-, hmem, -, -, hprog, -⟩ := h
  exact ⟨hprog, hmem⟩

/-! ### What Reset leaves (R250) -/

/-- D9: every register is 0. -/
theorem State.reg_afterReset (s : State) (font program : List Byte) (r : RegIdx) :
    (s.afterReset font program).reg r = 0 :=
  Vector.getElem_replicate r.isLt

/-- D9: every byte of STK is 0; a read outside STK is 0 as well (log 12). -/
theorem State.stkRead_afterReset (s : State) (font program : List Byte) (o : Nat) :
    (s.afterReset font program).stkRead o = 0 :=
  List.getD_eq_getElem?_getD.trans (List.getElem?_getD_replicate_default_eq ..)

/-- R37: pc is PROG_BASE as a number, for valid parameters keep PROG_BASE within 16 bits. -/
theorem State.afterReset_pc_toNat (program : List Byte) (hvalid : Config.Valid { s.cfg with font := font }) :
    (s.afterReset font program).pc.toNat = s.cfg.progBase := by
  obtain ⟨hprog, hmem⟩ := progBase_bounds_of_valid hvalid
  exact (BitVec.toNat_ofNat ..).trans (Nat.mod_eq_of_lt (by omega))

/-- Settles O16: valid parameters and a program that fits pass every check of Reset, and the state it builds is read
off part by part. -/
theorem resetLeaves : Obligations.ResetLeaves := by
  intro s font program hvalid hlen
  obtain ⟨hprog, -⟩ := progBase_bounds_of_valid hvalid
  have hnext : s.resetEvent font program = .next (s.afterReset font program) :=
    State.resetEvent_eq_next (font_length_of_valid hvalid) hvalid (by omega)
  exact ⟨s.afterReset font program, hnext, rfl, State.afterReset_pc_toNat program hvalid,
    s.reg_afterReset font program, rfl, rfl, s.stkRead_afterReset font program, rfl, rfl, rfl, rfl, rfl,
    fun _ => rfl, rfl, s.byteAt_afterReset font program⟩

/-! ### The preconditions (R251) -/

/-- R251(b): a font of another length is refused, whatever the parameters and the program are. -/
theorem State.resetEvent_eq_refused_of_font (s : State) (program : List Byte) (hfont : font.length ≠ 80) :
    s.resetEvent font program = .refused (.fontLength font.length) :=
  if_pos hfont

/-- R251(a), R236: under valid parameters a program that does not fit makes Reset fail with OutOfBounds. -/
theorem State.resetEvent_eq_fault (hvalid : Config.Valid { s.cfg with font := font })
    (hlong : s.cfg.memSize - s.cfg.progBase < program.length) :
    s.resetEvent font program = .fault (.resetOutOfBounds program.length) := by
  rw [State.resetEvent, if_neg (not_not_intro (font_length_of_valid hvalid)), if_neg (not_not_intro hvalid),
    if_pos hlong]

/-- Settles O17: each clause is one of the answers of `resetEvent`. -/
theorem resetPreconditions : Obligations.ResetPreconditions := fun s _ program =>
  ⟨State.resetEvent_eq_fault, s.resetEvent_eq_refused_of_font program⟩

end Sys2Proof.Machine
end
